-- ==== Sys2Proof/Word.lean ====
section
/-!
DEFINITION. The three widths of value that CORE handles (spec/00_scope.md, section 7, "Types").
Every value is unsigned; no operation of CORE sign-extends.
-/

namespace Sys2Proof

/-- `bits8`: a field element, an S-box entry, an array index or an operand field (R11, R64).
All 256 bit patterns are legal. -/
abbrev Byte := BitVec 8

/-- `bits32`: a table word, the unit of the output stream OUT (R9, R18, R31). -/
abbrev TableWord := BitVec 32

/-- `bits48`: a command word CMD[47:0] (R46). -/
abbrev CommandWord := BitVec 48

end Sys2Proof
end

