-- ==== Sys2Proof/Config.lean ====
section
/-!
DEFINITION. What the spec leaves open and the model leaves free.
R7: "the only values a model must leave free are the contents of the arrays SBOX and ISBOX while the
flag SBV is 0". Both constants below have no body, so nothing can be proved of their values
(notes/assumptions/1.md). The one other open parameter, `T_CMD(op)`, is read by no rule (R9) and is
left out (notes/assumptions/8.md). The fixed parameters of R9 stand beside the operations that use
them, in Machine/Gf.lean and Machine/Sbox.lean.
-/

namespace Sys2Proof

/-- FREE VALUE. What entry `i` of SBOX holds when no rule says what it holds (R13, R24). -/
opaque Config.unspecifiedSbox (i : Byte) : Byte

/-- FREE VALUE. What entry `i` of ISBOX holds when no rule says what it holds (R13, R24). -/
opaque Config.unspecifiedIsbox (i : Byte) : Byte

end Sys2Proof
end

