-- ==== Sys2Proof/Syntax.lean ====
section
/-!
DEFINITION. The six commands of CORE as syntax (R53), one constructor per row of
spec/opcode_table.json, and the ten table names of the assembler (R59, R104).
-/

namespace Sys2Proof

/-- The one-bit operand SRC (R52): which of the two internal arrays a command reads. -/
inductive Source where
  /-- SRC = 0, written `S`: the forward S-box, array SBOX. -/
  | s
  /-- SRC = 1, written `SI`: the inverse S-box, array ISBOX. -/
  | si
  deriving DecidableEq, Repr

/-- A multiplier vector: "an ordered sequence of exactly 4 field elements" (R52). `m0` is the
multiplier of byte0, the most significant byte of the output word. -/
structure MulVec where
  m0 : Byte
  m1 : Byte
  m2 : Byte
  m3 : Byte
  deriving DecidableEq, Repr

/-- The six commands with their operands (R53, R57). -/
inductive Instr where
  /-- `GFADD a, b`: field addition (R69). -/
  | gfadd (a b : Byte)
  /-- `GFMUL a, b`: field multiplication (R70). -/
  | gfmul (a b : Byte)
  /-- `DERIVE`: derive both S-boxes (R88). -/
  | derive
  /-- `GENTBL src, m0, m1, m2, m3`: generate and emit one table (R101). -/
  | gentbl (src : Source) (m : MulVec)
  /-- `RDSBOX src, idx`: read one entry of S or Si (R89). -/
  | rdsbox (src : Source) (idx : Byte)
  /-- `TWORD s, m0, m1, m2, m3`: emit one table word (R99). -/
  | tword (x : Byte) (m : MulVec)
  deriving DecidableEq, Repr

/-- The names of the ten required tables (R104). They are assembler names only: no command word and
no output word carries one (R59, R103). -/
inductive NamedTable where
  | te0 | te1 | te2 | te3 | te4 | td0 | td1 | td2 | td3 | td4
  deriving DecidableEq, Repr

/-- The ten names in the order of the document's table (R104). The order binds nobody (N10). -/
def NamedTable.all : List NamedTable :=
  [.te0, .te1, .te2, .te3, .te4, .td0, .td1, .td2, .td3, .td4]

end Sys2Proof
end

