-- ==== Sys2Proof/WellFormed.lean ====
section
/-!
DEFINITION. Which commands and which command words are well formed.
For a command there is nothing to refuse: each operand has exactly the width of its field, and every
value of every field is legal (R11, R33, R52). For a 48-bit word the mask and match columns of the
opcode map (R53) are the whole check: they cover the opcode and every reserved bit (R54).
-/

namespace Sys2Proof

/-- An operand fits its 8-bit field (R52). It always does: U1, "the case cannot be expressed". -/
def Byte.fits (b : Byte) : Bool := decide (b.toNat < 256)

/-- All four multipliers fit their fields (R52). -/
def MulVec.fits (m : MulVec) : Bool :=
  Byte.fits m.m0 && Byte.fits m.m1 && Byte.fits m.m2 && Byte.fits m.m3

/-- A command is well formed: every operand fits its field. -/
def Instr.wf : Instr → Bool
  | .gfadd a b => Byte.fits a && Byte.fits b
  | .gfmul a b => Byte.fits a && Byte.fits b
  | .derive => true
  | .gentbl _ m => m.fits
  | .rdsbox _ idx => Byte.fits idx
  | .tword x m => Byte.fits x && m.fits

/-- A row of the opcode map (R53). -/
structure OpcodeRow where
  mnemonic : String
  mask : CommandWord
  pattern : CommandWord
  deriving DecidableEq, Repr

/-- "A command word cw selects the row whose `cw and mask = match`." (R53) -/
def OpcodeRow.selects (row : OpcodeRow) (cw : CommandWord) : Bool := cw &&& row.mask == row.pattern

/-- Row 0x01 of R53. -/
def rowGfadd : OpcodeRow := ⟨"GFADD", 0xFFFFFFFF0000#48, 0x010000000000#48⟩
/-- Row 0x02 of R53. -/
def rowGfmul : OpcodeRow := ⟨"GFMUL", 0xFFFFFFFF0000#48, 0x020000000000#48⟩
/-- Row 0x03 of R53. -/
def rowDerive : OpcodeRow := ⟨"DERIVE", 0xFFFFFFFFFFFF#48, 0x030000000000#48⟩
/-- Row 0x04 of R53. -/
def rowGentbl : OpcodeRow := ⟨"GENTBL", 0xFFFE00000000#48, 0x040000000000#48⟩
/-- Row 0x05 of R53. -/
def rowRdsbox : OpcodeRow := ⟨"RDSBOX", 0xFFFEFFFFFF00#48, 0x050000000000#48⟩
/-- Row 0x06 of R53. -/
def rowTword : OpcodeRow := ⟨"TWORD", 0xFF0000000000#48, 0x060000000000#48⟩

/-- The opcode map's six assigned rows (R53). -/
def opcodeRows : List OpcodeRow := [rowGfadd, rowGfmul, rowDerive, rowGentbl, rowRdsbox, rowTword]

/-- A command word is well formed when it matches a row; every other word is illegal (R54, R55). -/
def CommandWord.wf (cw : CommandWord) : Bool := opcodeRows.any fun row => row.selects cw

/-- The row of the opcode map that a command belongs to (R53). -/
def Instr.row : Instr → OpcodeRow
  | .gfadd _ _ => rowGfadd
  | .gfmul _ _ => rowGfmul
  | .derive => rowDerive
  | .gentbl _ _ => rowGentbl
  | .rdsbox _ _ => rowRdsbox
  | .tword _ _ => rowTword

end Sys2Proof
end

