-- ==== Sys2Proof/Decode.lean ====
section
/-!
DEFINITION. Decoding and encoding of command words (R46 to R57), and the expansion of the ten
pseudo-instructions (R59, R104). Decoding is total: every one of the 2^48 words is a command or is
refused by name (R57).
-/

namespace Sys2Proof

/-! ## Fields of the command word (R46 to R51) -/

/-- OP, CMD[47:40], in every format (R46). -/
def fieldOp (cw : CommandWord) : Byte := cw.extractLsb' 40 8
/-- S of format W, CMD[39:32] (R51). -/
def fieldS (cw : CommandWord) : Byte := cw.extractLsb' 32 8
/-- A of format AB, CMD[15:8] (R48). -/
def fieldA (cw : CommandWord) : Byte := cw.extractLsb' 8 8
/-- B of format AB, CMD[7:0] (R48). -/
def fieldB (cw : CommandWord) : Byte := cw.extractLsb' 0 8
/-- IDX of format X, CMD[7:0] (R49). -/
def fieldIdx (cw : CommandWord) : Byte := cw.extractLsb' 0 8
/-- SRC of formats X and T, CMD[32]: 0 selects SBOX, 1 selects ISBOX (R49, R50, R52). -/
def fieldSrc (cw : CommandWord) : Source := if cw.getLsbD 32 then .si else .s
/-- M0 to M3 of formats T and W, CMD[31:0], M0 in the most significant byte (R50 to R52). -/
def fieldM (cw : CommandWord) : MulVec :=
  ⟨cw.extractLsb' 24 8, cw.extractLsb' 16 8, cw.extractLsb' 8 8, cw.extractLsb' 0 8⟩

/-! ## Decoding -/

/-- Why a word is illegal. Both reasons raise the one fault IllegalCommand (R54: "treated exactly as
an unassigned opcode"). -/
inductive Illegal where
  /-- OP is 0x00 or 0x07 to 0xFF (R55). -/
  | reservedOpcode
  /-- OP is assigned and a must-be-zero bit of its format is 1 (R54). -/
  | reservedBit
  deriving DecidableEq, Repr

/-- What a command word decodes to (R57: "either to exactly one command with its operand values or
to illegal"). -/
inductive Decoded where
  | legal (i : Instr)
  | illegal (why : Illegal)
  deriving DecidableEq, Repr

/-- The command `i` if the word's reserved bits are zero, else illegal (R54). -/
def ifReservedZero (zero : Bool) (i : Instr) : Decoded :=
  if zero then .legal i else .illegal .reservedBit

/-- The decoder, clause by clause as R57 writes it. -/
def decode (cw : CommandWord) : Decoded :=
  if fieldOp cw = 0x01#8 then
    ifReservedZero (cw.extractLsb' 16 24 == 0#24) (.gfadd (fieldA cw) (fieldB cw))
  else if fieldOp cw = 0x02#8 then
    ifReservedZero (cw.extractLsb' 16 24 == 0#24) (.gfmul (fieldA cw) (fieldB cw))
  else if fieldOp cw = 0x03#8 then
    ifReservedZero (cw.extractLsb' 0 40 == 0#40) .derive
  else if fieldOp cw = 0x04#8 then
    ifReservedZero (cw.extractLsb' 33 7 == 0#7) (.gentbl (fieldSrc cw) (fieldM cw))
  else if fieldOp cw = 0x05#8 then
    ifReservedZero (cw.extractLsb' 33 7 == 0#7 && cw.extractLsb' 8 24 == 0#24)
      (.rdsbox (fieldSrc cw) (fieldIdx cw))
  else if fieldOp cw = 0x06#8 then
    .legal (.tword (fieldS cw) (fieldM cw))
  else .illegal .reservedOpcode

/-! ## Encoding -/

/-- The SRC bit (R52). -/
def Source.bit : Source → BitVec 1
  | .s => 0#1
  | .si => 1#1

/-- The 32-bit multiplier field, M0 first (R50, R52). -/
def MulVec.bits (m : MulVec) : BitVec 32 := m.m0 ++ m.m1 ++ m.m2 ++ m.m3

/-- "`encode` is the inverse on legal commands: it places OP and the operand fields and zeroes every
reserved bit" (R57), laid out as the table of R58. -/
def encode : Instr → CommandWord
  | .gfadd a b => 0x01#8 ++ 0#24 ++ a ++ b
  | .gfmul a b => 0x02#8 ++ 0#24 ++ a ++ b
  | .derive => 0x03#8 ++ 0#40
  | .gentbl src m => 0x04#8 ++ 0#7 ++ src.bit ++ m.bits
  | .rdsbox src idx => 0x05#8 ++ 0#7 ++ src.bit ++ 0#24 ++ idx
  | .tword x m => 0x06#8 ++ x ++ m.bits

/-! ## Pseudo-instructions -/

/-- The one GENTBL that each table name stands for (R59, R104; decimal in the document). -/
def NamedTable.expand : NamedTable → Instr
  | .te0 => .gentbl .s ⟨2, 1, 1, 3⟩
  | .te1 => .gentbl .s ⟨3, 2, 1, 1⟩
  | .te2 => .gentbl .s ⟨1, 3, 2, 1⟩
  | .te3 => .gentbl .s ⟨1, 1, 3, 2⟩
  | .te4 => .gentbl .s ⟨1, 1, 1, 1⟩
  | .td0 => .gentbl .si ⟨14, 9, 13, 11⟩
  | .td1 => .gentbl .si ⟨11, 14, 9, 13⟩
  | .td2 => .gentbl .si ⟨13, 11, 14, 9⟩
  | .td3 => .gentbl .si ⟨9, 13, 11, 14⟩
  | .td4 => .gentbl .si ⟨1, 1, 1, 1⟩

/-! ## Words numbered as spec/opcode_table.json numbers them -/

/-- The command word whose low `nbits` bits are those of `w` and whose other bits are 0. A command is
ONE word of 48 bits (R46), so the table's numbering is the word's own. -/
def tableWord (nbits w : Nat) : CommandWord := BitVec.ofNat 48 (w % 2 ^ nbits)

/-- The command the decoder reads from a table word, if it is legal. -/
def decodeTableWord (nbits w : Nat) : Option Instr :=
  match decode (tableWord nbits w) with
  | .legal i => some i
  | .illegal _ => none

end Sys2Proof
end

