-- ==== Sys2Proof/Machine/State.lean ====
section
/-!
DEFINITION. The state of CORE (R10), the host's presented inputs (R6, R8, R140), and the reasons a
step of the model can stop. State is plain data.
-/

namespace Sys2Proof.Machine

/-- An array of CORE (SBOX or ISBOX): its entries that hold a stated byte, as (index, byte) pairs with
strictly rising indexes (`Memory.wf`, Machine/Ops.lean). An index with no pair holds an unspecified
byte (R13; 93_implementation_defined.md U2: absent is equivalent). -/
abbrev Memory := List Host.Cell

/-- FCAUSE, two bits, all four values legal (R17, R19, R110). -/
inductive Cause where
  /-- 0: FAULT = 0. -/
  | none
  /-- 1: a walk step of DERIVE failed its integrity check (R111). -/
  | gfInconsistency
  /-- 2: the word presented matches no row of the opcode map (R112). -/
  | illegalCommand
  /-- 3: RDSBOX or GENTBL while SBV = 0 (R113). -/
  | sboxNotReady
  deriving DecidableEq, Repr

/-- One interaction that makes CORE take a step. The host chooses the sequence (R6, R8, R140);
reading an output takes no step (R140, "sampling has no effect"). -/
inductive HostEvent where
  /-- A 48-bit word on CMD with CMD_VALID (R25, R140). -/
  | command (cw : CommandWord)
  /-- A reset event: RST asserted between commands (R128). -/
  | reset
  /-- RST asserted while the command of `cw` is in progress, after `emitted` of its words have left
  (R130, 93_implementation_defined.md U8). -/
  | resetDuring (cw : CommandWord) (emitted : Nat)
  /-- Loss of power, power-on, and the reset event that must follow it (R127, R128). -/
  | powerCycle
  deriving DecidableEq, Repr

/-- The state. The first nine fields are exactly the elements of R10 with the record OUT; `host` is
the model's own (notes/assumptions/3.md). -/
structure State where
  /-- SBOX, 256 entries of 8 bits: the forward S-box (R12). -/
  sbox : Memory
  /-- ISBOX, 256 entries of 8 bits: the inverse S-box (R12). -/
  isbox : Memory
  /-- SBV, 1 bit: the arrays hold a completed derivation (R14). -/
  sbv : Bool
  /-- P, 8 bits: running value p of the walk (R15). -/
  p : Byte
  /-- Q, 8 bits: running value q of the walk (R15). -/
  q : Byte
  /-- RES, 8 bits: result of the last GFADD, GFMUL or RDSBOX (R16). -/
  res : Byte
  /-- FAULT, 1 bit, sticky (R17). -/
  fault : Bool
  /-- FCAUSE, 2 bits (R17). -/
  fcause : Cause
  /-- OUT: every word emitted, oldest first; a record, not storage in CORE (R18). -/
  out : List TableWord
  /-- MODEL'S OWN: what the host will present, next first. CORE has no program counter and no program
  (R20); each step takes the first of these (R6). -/
  host : List HostEvent
  deriving DecidableEq, Repr

/-- Why a step of the model can stop. CORE's own faults are no stops: they are states (R116, R117). -/
inductive Fault where
  /-- Raised by DERIVE alone, if the walk has not returned to P = 0x01 within its 255 steps (R86).
  Safe: the model stops where a walk without end would go on, and R86 says that it never happens
  (Obligations.EveryCommandCompletes states so of the model; notes/assumptions/10.md). -/
  | walkUnfinished
  deriving DecidableEq, Repr

/-- Why the model may give a command no meaning. -/
inductive Refusal where
  /-- Raised only by an arm of `exec` that has no meaning yet; no arm does so now. Safe: the model
  stops. -/
  | notModelled (mnemonic : String)
  deriving DecidableEq, Repr

/-- What a command, or a step, ends in. -/
abbrev Result := Host.Outcome State Fault Refusal

/-- The state after power-on and the reset event that must follow it (R24, R128, R129): no entry of
either array is specified, OUT is empty, and the host has presented nothing. -/
def State.reset : State where
  sbox := []
  isbox := []
  sbv := false
  p := 0x00#8
  q := 0x00#8
  res := 0x00#8
  fault := false
  fcause := .none
  out := []
  host := []

end Sys2Proof.Machine
end

