-- ==== Sys2Proof/Machine/Ops.lean ====
section
/-!
DEFINITION. The named operations over the arrays, the registers and the output stream; entering the
fault state; and the reset event, which is the only way out of it (R118).
-/

namespace Sys2Proof.Machine

/-! ## One array -/

/-- The stated byte at an index, if the array holds one. -/
def Memory.read : Memory → Nat → Option Byte
  | [], _ => none
  | (b, w) :: rest, a => if a = b then some w else Memory.read rest a

/-- Store a byte at an index, keeping the indexes strictly rising. -/
def Memory.write : Memory → Nat → Byte → Memory
  | [], a, v => [(a, v)]
  | (b, w) :: rest, a, v =>
    if a < b then (a, v) :: (b, w) :: rest
    else if a = b then (a, v) :: rest
    else (b, w) :: Memory.write rest a v

/-- Strictly rising indexes, none below `lo` and none above 255 (R30). -/
def Memory.risingFrom : Nat → Memory → Bool
  | _, [] => true
  | lo, (b, _) :: rest => decide (lo ≤ b) && decide (b < 256) && Memory.risingFrom (b + 1) rest

/-- The canonical form of an array. An index without a pair has no stated byte, so no pair can equal
what such an index reads as. -/
def Memory.wf (m : Memory) : Bool := Memory.risingFrom 0 m

/-- The byte an array's entry holds: the stated one, else a free value (R13). -/
def entryOf (src : Source) (m : Memory) (i : Byte) : Byte :=
  match Memory.read m i.toNat, src with
  | some v, _ => v
  | none, .s => Config.unspecifiedSbox i
  | none, .si => Config.unspecifiedIsbox i

/-! ## The two arrays in the state -/

/-- The array that SRC selects (R52). -/
def State.array (src : Source) (s : State) : Memory :=
  match src with
  | .s => s.sbox
  | .si => s.isbox

/-- `MemRead(A, i)` (00_scope.md, section 7). Every index is in range (R33). -/
def memRead (src : Source) (i : Byte) (s : State) : Byte := entryOf src (s.array src) i

/-- `MemWrite(SBOX, i, v)` (00_scope.md, section 7). -/
def writeSbox (i v : Byte) (s : State) : State := { s with sbox := Memory.write s.sbox i.toNat v }

/-- ISBOX as a whole becomes `m`: the end of the inverse pass (R84). -/
def setIsbox (m : Memory) (s : State) : State := { s with isbox := m }

/-! ## Registers and flags -/

/-- `RES <- v` (R16). -/
def setRes (v : Byte) (s : State) : State := { s with res := v }

/-- `SBV <- v` (R14). -/
def setSbv (v : Bool) (s : State) : State := { s with sbv := v }

/-- P, Q and SBOX as the walk leaves them (R83). -/
def setWalk (p q : Byte) (m : Memory) (s : State) : State := { s with p := p, q := q, sbox := m }

/-! ## The output stream -/

/-- `emit(w)` for each word of a list in turn: OUT grows at its end (R18, R37 (d)). -/
def emitAll (ws : List TableWord) (s : State) : State := { s with out := s.out ++ ws }

/-- `emit(w)` (R18). -/
def emit (w : TableWord) (s : State) : State := emitAll [w] s

/-! ## The host's inputs -/

/-- The first of the host's inputs has been taken. -/
def takeInput (rest : List HostEvent) (s : State) : State := { s with host := rest }

/-! ## Fault entry and the way out -/

/-- Fault entry, `raise Fault(c)` (R116): FAULT and FCAUSE are written and nothing else. There is no
vector, no saved state and no mode change; the rest of the command does not run. -/
def raiseFault (c : Cause) (s : State) : State := { s with fault := true, fcause := c }

/-- "FAULT = 0, else the command is ignored" (R117): the first check of every command (R115). -/
def whenReady (s : State) (k : Result) : Result := if s.fault then .next s else k

/-- "SBV = 1, else raise Fault(SboxNotReady)" (R113), before anything is read, written or emitted. -/
def whenSboxValid (s : State) (k : Result) : Result :=
  if s.sbv then k else .next (raiseFault .sboxNotReady s)

/-- The reset event (R129), legal in every state and the only exit from the fault state (R118). SBOX
and ISBOX are not written; nothing is emitted and nothing is removed from OUT. -/
def resetEvent (s : State) : State :=
  { s with
    fault := false, fcause := .none, sbv := false, p := 0x00#8, q := 0x00#8, res := 0x00#8 }

/-- RST during a command (R130): the command is abandoned, the words `ws` it had already emitted stay
emitted, and CORE ends as after reset. What an abandoned command leaves in the arrays no rule says,
so no entry stays specified (R13, R24). -/
def abandonCommand (ws : List TableWord) (s : State) : State :=
  resetEvent { s with sbox := [], isbox := [], out := s.out ++ ws }

/-- Loss of power, power-on and the reset event that follows it (R127, R128): everything is lost, OUT
is empty (R18), and the rest of what the host will present is still to come. -/
def powerOnReset (s : State) : State := { State.reset with host := s.host }

end Sys2Proof.Machine
end

