-- ==== Sys2Proof/Machine/Flags.lean ====
section
/-!
DEFINITION. The status register and the output pins: views of the state that add no state
(R19, R25, R26), and the end of a run (R139).
-/

namespace Sys2Proof.Machine

/-- The two-bit code of a cause (R110). -/
def Cause.code : Cause → BitVec 2
  | .none => 0#2
  | .gfInconsistency => 1#2
  | .illegalCommand => 2#2
  | .sboxNotReady => 3#2

/-- STATUS (R19): FAULT in bit 0, SBV in bit 1, FCAUSE in bits 3:2, zeros in bits 7:4. -/
def status (s : State) : Byte :=
  0#4 ++ s.fcause.code ++ BitVec.ofBool s.sbv ++ BitVec.ofBool s.fault

/-- CMD_READY (R25): CORE is idle, as it always is between steps, and FAULT = 0. -/
def cmdReady (s : State) : Bool := !s.fault

/-- The output pins between steps (R25). -/
structure Pins where
  cmdReady : Bool
  res : Byte
  status : Byte
  pDiag : Byte
  qDiag : Byte
  deriving DecidableEq, Repr

/-- What the pins show in a state (R25, R26). -/
def pins (s : State) : Pins := ⟨cmdReady s, s.res, status s, s.p, s.q⟩

/-- The words on OUT_WORD, one OUT_VALID pulse each, during a step from `s` to `t` (R18, R25, R26). -/
def wordsOf (s t : State) : List TableWord := t.out.drop s.out.length

/-- A run that ends in this state has ended normally (R139). -/
def endsNormally (s : State) : Bool := !s.fault

end Sys2Proof.Machine
end

