-- ==== Sys2Proof/Machine/Gf.lean ====
section
/-!
DEFINITION. Unit GFMUL: the field GF(2^8) (R64 to R68) and its two commands (R69, R70).
-/

namespace Sys2Proof.Machine

/-! ## The pure functions -/

/-- The low byte of the reduction constant 0x11B of x^8+x^4+x^3+x+1 (R9, R64). -/
def reductionLow : Byte := 0x1B#8

/-- `add` (R65): bitwise exclusive or. It has no carry and no flag. -/
def add (a b : Byte) : Byte := a ^^^ b

/-- `xtime` (R66): shift left by one, and reduce if the shift carries a 1 out of bit 7. -/
def xtime (a : Byte) : Byte := if a.getLsbD 7 then (a <<< 1) ^^^ reductionLow else a <<< 1

/-- The loop of `multiply` on working copies a, b and the accumulator r (R67), at most `n` iterations. -/
def multiplyLoop : Nat → Byte → Byte → Byte → Byte
  | 0, _, _, r => r
  | n + 1, a, b, r =>
    if a = 0#8 ∨ b = 0#8 then r
    else multiplyLoop n (xtime a) (b >>> 1) (if b.getLsbD 0 then add r a else r)

/-- `multiply` (R67). "the loop always terminates after at most 8 iterations" (R77), so a bound of 8
cuts nothing off. -/
def multiply (a b : Byte) : Byte := multiplyLoop 8 a b 0x00#8

/-- The number of iterations the loop of `multiply` makes (R77). Not observable; a bound for a circuit. -/
def multiplyIterations : Nat → Byte → Byte → Nat
  | 0, _, _ => 0
  | n + 1, a, b => if a = 0#8 ∨ b = 0#8 then 0 else multiplyIterations n (xtime a) (b >>> 1) + 1

/-- The power x^k, taken with `multiply` (R75, R92). -/
def power (x : Byte) : Nat → Byte
  | 0 => 0x01#8
  | k + 1 => multiply (power x k) x

/-! ## The commands -/

/-- GFADD (R69): RES <- add(A, B). -/
def execGfadd (a b : Byte) (s : State) : Result := whenReady s (.next (setRes (add a b) s))

/-- GFMUL (R70): RES <- multiply(A, B). -/
def execGfmul (a b : Byte) (s : State) : Result := whenReady s (.next (setRes (multiply a b) s))

end Sys2Proof.Machine
end

