-- ==== Sys2Proof/Machine/Operands.lean ====
section
/-!
DEFINITION. Operand forms and result forms: the indexes of an array, and the packing of four bytes
into one word (R31).
-/

namespace Sys2Proof.Machine

/-- `for i in 0..255`: the 256 indexes in ascending order (00_scope.md, section 7). -/
def indexes : List Byte := (List.range 256).map (BitVec.ofNat 8)

/-- `pack_be` (R31): byte0 is the most significant byte of the word. -/
def packBe (b0 b1 b2 b3 : Byte) : TableWord := b0 ++ b1 ++ b2 ++ b3

/-- Lane `k` of a word: byte k stands at bits (31 - 8k) down to (24 - 8k) (R31, R98). -/
def byteOf (k : Nat) (w : TableWord) : Byte := w.extractLsb' (24 - 8 * k) 8

/-- The multiplier of lane `k`, for k = 0 to 3 (R52, R98). -/
def laneOf (k : Nat) (m : MulVec) : Byte :=
  match k with
  | 0 => m.m0
  | 1 => m.m1
  | 2 => m.m2
  | _ => m.m3

end Sys2Proof.Machine
end

