-- ==== Sys2Proof/Machine/Sbox.lean ====
section
/-!
DEFINITION. Unit SBOXGEN: the walk of the multiplicative group, the affine transform, the integrity
check and the inverse pass (R80 to R87), and the commands DERIVE (R88) and RDSBOX (R89).
-/

namespace Sys2Proof.Machine

/-! ## The pure functions -/

/-- The forward walk multiplier (R9, R83). -/
def walkForward : Byte := 0x03#8
/-- The inverse walk multiplier, the inverse of 0x03 (R9, R75, R83). -/
def walkInverse : Byte := 0xF6#8
/-- The affine constant (R9, R82), also the fixed entry 0 (R87). -/
def affineConstant : Byte := 0x63#8
/-- The group walk length (R9, R86). -/
def walkLength : Nat := 255

/-- `rotl8` (R81), used for n = 1 to 4. -/
def rotl8 (x : Byte) (n : Nat) : Byte := (x <<< n) ||| (x >>> (8 - n))

/-- `affine_xf` (R82), the document's xf. -/
def affineXf (q : Byte) : Byte := q ^^^ rotl8 q 1 ^^^ rotl8 q 2 ^^^ rotl8 q 3 ^^^ rotl8 q 4

/-- `affine` (R82): the S-box value of an element whose inverse is `q`. -/
def affine (q : Byte) : Byte := affineXf q ^^^ affineConstant

/-! ## The walk -/

/-- What the walk operates on (R83): the registers P and Q and the array SBOX. -/
structure Walk where
  p : Byte
  q : Byte
  sbox : Memory
  deriving DecidableEq, Repr

/-- P <- 0x01 ; Q <- 0x01 (R83, step 1). -/
def walkStart (sbox : Memory) : Walk := ⟨0x01#8, 0x01#8, sbox⟩

/-- Both advances, then the store of the affine byte of the new Q at the new P (R83, R136 (a)). -/
def walkStep (w : Walk) : Walk :=
  let p := multiply w.p walkForward
  let q := multiply w.q walkInverse
  ⟨p, q, Memory.write w.sbox p.toNat (affine q)⟩

/-- The integrity check of a step: multiply(P, Q) = 0x01, on the new pair (R85, R136 (b)). -/
def walkChecks (w : Walk) : Bool := multiply w.p w.q == 0x01#8

/-- How a walk ends. -/
inductive WalkEnd where
  /-- P has returned to 0x01 (R83, step 4). -/
  | returned (w : Walk)
  /-- The step that led here failed the integrity check (R85). -/
  | inconsistent (w : Walk)
  /-- The bound on the steps is used up with P not back at 0x01; R86 says that it never is. -/
  | unfinished
  deriving DecidableEq, Repr

/-- The do/while loop of R83 with at most `n` steps: body, then check, then test. -/
def walk : Nat → Walk → WalkEnd
  | 0, _ => .unfinished
  | n + 1, w =>
    let t := walkStep w
    if walkChecks t then
      if t.p = 0x01#8 then .returned t else walk n t
    else .inconsistent t

/-! ## After the walk -/

/-- `fix_zero` (R87). -/
def fixZero (s : State) : State := writeSbox 0x00#8 affineConstant s

/-- The inverse pass of R84 over a finished SBOX: for each i in turn, ISBOX[SBOX[i]] <- i. -/
def invertArray (sbox isbox : Memory) : Memory :=
  indexes.foldl (fun m i => Memory.write m (entryOf .s sbox i).toNat i) isbox

/-- `invert` (R84). -/
def invert (s : State) : State := setIsbox (invertArray s.sbox s.isbox) s

/-- What DERIVE does after its walk (R88), SBV being 0 by then: the rest of the derivation, or fault
entry with P and Q at the failing pair and SBOX as stored so far (R85, R116). -/
def finishDerive (s : State) (e : WalkEnd) : Result :=
  match e with
  | .returned w => .next (setSbv true (invert (fixZero (setWalk w.p w.q w.sbox s))))
  | .inconsistent w => .next (raiseFault .gfInconsistency (setWalk w.p w.q w.sbox s))
  | .unfinished => .fault .walkUnfinished

/-! ## The commands -/

/-- DERIVE (R88). It reads no old entry of either array and needs no SBV. -/
def execDerive (s : State) : Result :=
  whenReady s (finishDerive (setSbv false s) (walk walkLength (walkStart s.sbox)))

/-- RDSBOX (R89): RES <- the selected array's entry IDX. -/
def execRdsbox (src : Source) (idx : Byte) (s : State) : Result :=
  whenReady s (whenSboxValid s (.next (setRes (memRead src idx s) s)))

end Sys2Proof.Machine
end

