-- ==== Sys2Proof/Machine/Table.lean ====
section
/-!
DEFINITION. Unit TVEC: one table word (R97, R98), one table (R100), and the commands TWORD (R99) and
GENTBL (R101).
-/

namespace Sys2Proof.Machine

/-- `tword` (R97): four products of the one byte, packed with lane 0 in the most significant byte. -/
def tword (x : Byte) (m : MulVec) : TableWord :=
  packBe (multiply x m.m0) (multiply x m.m1) (multiply x m.m2) (multiply x m.m3)

/-- `generate_table` (R100) over the array that `src` selects: one word for each index, ascending. -/
def generateTable (src : Source) (m : MulVec) (s : State) : List TableWord :=
  indexes.map fun i => tword (memRead src i s) m

/-- TWORD (R99): one word is emitted; no array is read and no SBV is needed. -/
def execTword (x : Byte) (m : MulVec) (s : State) : Result := whenReady s (.next (emit (tword x m) s))

/-- GENTBL (R101): all 256 words are emitted, or none. -/
def execGentbl (src : Source) (m : MulVec) (s : State) : Result :=
  whenReady s (whenSboxValid s (.next (emitAll (generateTable src m s) s)))

end Sys2Proof.Machine
end

