-- ==== Sys2Proof/Machine/Dispatch.lean ====
section
/-! DEFINITION. `exec`: one arm per command of the opcode map (R53), each one call of its meaning. -/

namespace Sys2Proof.Machine

def exec (i : Instr) (s : State) : Host.Outcome State Fault Refusal :=
  match i with
  | .gfadd a b => Sys2Proof.Machine.execGfadd a b s
  | .gfmul a b => Sys2Proof.Machine.execGfmul a b s
  | .derive => Sys2Proof.Machine.execDerive s
  | .gentbl src m => Sys2Proof.Machine.execGentbl src m s
  | .rdsbox src idx => Sys2Proof.Machine.execRdsbox src idx s
  | .tword x m => Sys2Proof.Machine.execTword x m s

end Sys2Proof.Machine
end

