-- ==== Sys2Proof/Machine/Serve.lean ====
section
/-!
DEFINITION. Taking one of the host's inputs (R140): a command word, a reset event, a reset that
interrupts a command, or a power cycle.
-/

namespace Sys2Proof.Machine

/-- A command word is presented (R115): ignored while FAULT = 1, else decoded; a legal word runs its
command, any other word raises IllegalCommand and changes nothing else (R112). -/
def presentWord (cw : CommandWord) (s : State) : Result :=
  whenReady s
    (match decode cw with
    | .legal i => exec i s
    | .illegal _ => .next (raiseFault .illegalCommand s))

/-- RST while the command of `cw` is in progress (R130, U8): a prefix of the words it would have
emitted, then reset. A word that is not accepted (R117) or that faults emits nothing. -/
def interruptWord (cw : CommandWord) (emitted : Nat) (s : State) : Result :=
  match presentWord cw s with
  | .next t => .next (abandonCommand ((wordsOf s t).take emitted) s)
  | .fault r => .fault r
  | .refused r => .refused r

/-- One input is taken. -/
def serve (e : HostEvent) (s : State) : Result :=
  match e with
  | .command cw => presentWord cw s
  | .reset => .next (resetEvent s)
  | .resetDuring cw emitted => interruptWord cw emitted s
  | .powerCycle => .next (powerOnReset s)

/-- The next input is taken off the host's sequence and served. With nothing presented CORE is idle
"and keeps all its state" (R127). -/
def takeStep (s : State) : Result :=
  match s.host with
  | [] => .next s
  | e :: rest => serve e (takeInput rest s)

/-- The host presents a command word next, before all else it will present. -/
def presentNext (cw : CommandWord) (s : State) : State := takeInput (.command cw :: s.host) s

end Sys2Proof.Machine
end

