-- ==== Sys2Proof/Machine/Step.lean ====
section
/-!
DEFINITION. One step of CORE: "either one reset event or the acceptance and complete execution of one
command word" (R6), whichever the host presents next.
-/

namespace Sys2Proof.Machine

/-- One step (R6, R7). -/
def step (s : State) : Host.Outcome State Fault Refusal := takeStep s

/-- The state in which the host presents the table word `w` next. CORE fetches nothing (R20, R39): each
word comes from the host at the moment it is executed, and this stands for its presenting one. -/
def State.withFetchWord (s : State) (nbits w : Nat) : State := presentNext (tableWord nbits w) s

end Sys2Proof.Machine
end

