-- ==== Sys2Proof/Machine/Assembler.lean ====
section
/-!
DEFINITION. The spec's assembly spelling (R58), the pseudo-instructions (R59) and the directive RESET
(R60): what one line of a listing makes the host present.
-/

namespace Sys2Proof.Machine

/-- A piece of a line: a mnemonic, an operand, or a comma. -/
abbrev Token := List Char

/-- "A `;` starts a comment to the end of the line." (R58) -/
def stripComment (line : List Char) : List Char := line.takeWhile fun c => c != ';'

/-- The pending token, if it has a character. It is kept reversed. -/
def flushToken (cur : Token) : List Token := if cur.isEmpty then [] else [cur.reverse]

/-- Cut a line at blanks and at commas; a comma is a token of its own. -/
def lexFrom : List Char → Token → List Token
  | [], cur => flushToken cur
  | c :: rest, cur =>
    if c = ' ' ∨ c = '\t' then flushToken cur ++ lexFrom rest []
    else if c = ',' then flushToken cur ++ [','] :: lexFrom rest []
    else lexFrom rest (c :: cur)

/-- "Operands are separated by commas." (R58) -/
def operandList : List Token → Option (List Token)
  | [] => some []
  | [x] => if x = [','] then none else some [x]
  | x :: comma :: rest =>
    if x ≠ [','] ∧ comma = [','] ∧ rest ≠ [] then (operandList rest).map (x :: ·) else none

/-- A digit's value; hexadecimal letters in either case (notes/assumptions/9.md). -/
def digitValue (c : Char) : Option Nat :=
  let n := c.toNat
  if 48 ≤ n ∧ n ≤ 57 then some (n - 48)
  else if 65 ≤ n ∧ n ≤ 70 then some (n - 55)
  else if 97 ≤ n ∧ n ≤ 102 then some (n - 87)
  else none

/-- Read digits of a base after the value `acc` of those before them. -/
def readDigits (base : Nat) : List Char → Nat → Option Nat
  | [], acc => some acc
  | c :: rest, acc =>
    match digitValue c with
    | some d => if d < base then readDigits base rest (acc * base + d) else none
    | none => none

/-- "A number is decimal, or hexadecimal with the prefix `0x`; it must fit its field (0..255)." (R58) -/
def readNumber (t : Token) : Option Byte :=
  let value :=
    match t with
    | [] => none
    | ['0', 'x'] => none
    | '0' :: 'x' :: digits => readDigits 16 digits 0
    | digits => readDigits 10 digits 0
  match value with
  | some n => if n < 256 then some (BitVec.ofNat 8 n) else none
  | none => none

/-- "The array operand is the name `S` (SRC = 0) or `SI` (SRC = 1)." (R58) -/
def readSource (t : Token) : Option Source :=
  if t = ['S'] then some .s else if t = ['S', 'I'] then some .si else none

/-- The spelling of each table's pseudo-instruction (R59). -/
def tableSpelling : NamedTable → Token
  | .te0 => ['T', 'E', '0']
  | .te1 => ['T', 'E', '1']
  | .te2 => ['T', 'E', '2']
  | .te3 => ['T', 'E', '3']
  | .te4 => ['T', 'E', '4']
  | .td0 => ['T', 'D', '0']
  | .td1 => ['T', 'D', '1']
  | .td2 => ['T', 'D', '2']
  | .td3 => ['T', 'D', '3']
  | .td4 => ['T', 'D', '4']

/-- The operands of a command whose operands are all numbers. -/
def readBytes (ops : List Token) : Option (List Byte) := ops.mapM readNumber

/-- A command of R58 from its mnemonic and operands. -/
def readCommand (mnemonic : Token) (ops : List Token) : Option Instr :=
  if mnemonic = "GFADD".toList then
    match readBytes ops with
    | some [a, b] => some (.gfadd a b)
    | _ => none
  else if mnemonic = "GFMUL".toList then
    match readBytes ops with
    | some [a, b] => some (.gfmul a b)
    | _ => none
  else if mnemonic = "DERIVE".toList then
    match ops with
    | [] => some .derive
    | _ => none
  else if mnemonic = "GENTBL".toList then
    match ops with
    | src :: ms =>
      match readSource src, readBytes ms with
      | some src, some [m0, m1, m2, m3] => some (.gentbl src ⟨m0, m1, m2, m3⟩)
      | _, _ => none
    | [] => none
  else if mnemonic = "RDSBOX".toList then
    match ops with
    | [src, idx] =>
      match readSource src, readNumber idx with
      | some src, some idx => some (.rdsbox src idx)
      | _, _ => none
    | _ => none
  else if mnemonic = "TWORD".toList then
    match readBytes ops with
    | some [x, m0, m1, m2, m3] => some (.tword x ⟨m0, m1, m2, m3⟩)
    | _ => none
  else none

/-- A pseudo-instruction of R59, which takes no operand. -/
def readPseudo (mnemonic : Token) (ops : List Token) : Option Instr :=
  match ops with
  | [] => (NamedTable.all.find? fun t => tableSpelling t = mnemonic).map NamedTable.expand
  | _ => none

/-- What a line of a listing says. -/
inductive AsmLine where
  /-- Nothing but blanks and a comment. -/
  | blank
  /-- A command, a pseudo-instruction or the directive RESET: what the host presents. -/
  | presents (e : HostEvent)
  /-- Not a line of R58 to R60. -/
  | malformed
  deriving DecidableEq, Repr

/-- One line of a listing, cut into tokens. RESET "is not a command word and has no encoding" (R60). -/
def assembleTokens : List Token → AsmLine
  | [] => .blank
  | mnemonic :: args =>
    match operandList args with
    | none => .malformed
    | some ops =>
      if mnemonic = "RESET".toList then
        if ops = [] then .presents .reset else .malformed
      else
        match readCommand mnemonic ops, readPseudo mnemonic ops with
        | some i, _ => .presents (.command (encode i))
        | none, some i => .presents (.command (encode i))
        | none, none => .malformed

/-- One line of a listing (R58 to R60). -/
def assembleLine (line : String) : AsmLine :=
  assembleTokens (lexFrom (stripComment line.toList) [])

end Sys2Proof.Machine
end

