-- ==== Sys2Proof/Safety.lean ====
section
/-!
DEFINITION. The terms that claims about CORE are stated in: the two finished S-boxes as the spec
prints them, the invariants of the machine, and what two states have in common when no observer can
tell them apart.
-/

namespace Sys2Proof.Machine

/-! ## The printed S-boxes -/

/-- 96_test_vectors_tables.md, section 1: the sixteen rows of SBOX after DERIVE, column 0 leftmost. -/
def sboxGrid : List (BitVec 128) :=
  [0x637c777bf26b6fc53001672bfed7ab76#128,
   0xca82c97dfa5947f0add4a2af9ca472c0#128,
   0xb7fd9326363ff7cc34a5e5f171d83115#128,
   0x04c723c31896059a071280e2eb27b275#128,
   0x09832c1a1b6e5aa0523bd6b329e32f84#128,
   0x53d100ed20fcb15b6acbbe394a4c58cf#128,
   0xd0efaafb434d338545f9027f503c9fa8#128,
   0x51a3408f929d38f5bcb6da2110fff3d2#128,
   0xcd0c13ec5f974417c4a77e3d645d1973#128,
   0x60814fdc222a908846eeb814de5e0bdb#128,
   0xe0323a0a4906245cc2d3ac629195e479#128,
   0xe7c8376d8dd54ea96c56f4ea657aae08#128,
   0xba78252e1ca6b4c6e8dd741f4bbd8b8a#128,
   0x703eb5664803f60e613557b986c11d9e#128,
   0xe1f8981169d98e949b1e87e9ce5528df#128,
   0x8ca1890dbfe6426841992d0fb054bb16#128]

/-- 96_test_vectors_tables.md, section 2: the sixteen rows of ISBOX after DERIVE, column 0 leftmost. -/
def isboxGrid : List (BitVec 128) :=
  [0x52096ad53036a538bf40a39e81f3d7fb#128,
   0x7ce339829b2fff87348e4344c4dee9cb#128,
   0x547b9432a6c2233dee4c950b42fac34e#128,
   0x082ea16628d924b2765ba2496d8bd125#128,
   0x72f8f66486689816d4a45ccc5d65b692#128,
   0x6c704850fdedb9da5e154657a78d9d84#128,
   0x90d8ab008cbcd30af7e45805b8b34506#128,
   0xd02c1e8fca3f0f02c1afbd0301138a6b#128,
   0x3a9111414f67dcea97f2cfcef0b4e673#128,
   0x96ac7422e7ad3585e2f937e81c75df6e#128,
   0x47f11a711d29c5896fb7620eaa18be1b#128,
   0xfc563e4bc6d279209adbc0fe78cd5af4#128,
   0x1fdda8338807c731b11210592780ec5f#128,
   0x60517fa919b54a0d2de57a9f93c99cef#128,
   0xa0e03b4dae2af5b0c8ebbb3c83539961#128,
   0x172b047eba77d626e169146355210c7d#128]

/-- The byte of a grid at an index: "the row label is the high nibble of the index, the column label
the low nibble" (96_test_vectors_tables.md). -/
def gridByte (grid : List (BitVec 128)) (i : Byte) : Byte :=
  (grid.getD (i.toNat / 16) 0#128).extractLsb' (8 * (15 - i.toNat % 16)) 8

/-- The printed contents of the array that SRC selects. -/
def printedBox (src : Source) (i : Byte) : Byte :=
  match src with
  | .s => gridByte sboxGrid i
  | .si => gridByte isboxGrid i

/-! ## Invariants -/

/-- Both arrays are in canonical form. -/
def ArraysCanonical (s : State) : Prop := s.sbox.wf = true ∧ s.isbox.wf = true

/-- What R22 says of the state whenever SBV = 1, part by part. -/
structure SboxesDerived (s : State) : Prop where
  /-- (a) SBOX is a bijection of 0..255 onto itself. -/
  bijective : Function.Bijective fun i => memRead .s i s
  /-- (b) SBOX[0] = 0x63. -/
  zeroEntry : memRead .s 0x00#8 s = 0x63#8
  /-- (c) ISBOX[SBOX[x]] = x for all x. -/
  inverseOfForward : ∀ x, memRead .si (memRead .s x s) s = x
  /-- (c) SBOX[ISBOX[x]] = x for all x. -/
  forwardOfInverse : ∀ x, memRead .s (memRead .si x s) s = x
  /-- (d) Both arrays equal the printed tables, entry for entry. -/
  printed : ∀ src i, memRead src i s = printedBox src i
  /-- (e) P = 0x01. -/
  pOne : s.p = 0x01#8
  /-- (e) Q = 0x01. -/
  qOne : s.q = 0x01#8

/-- R22: whenever SBV = 1 the S-boxes are derived. -/
def SboxInvariant (s : State) : Prop := s.sbv = true → SboxesDerived s

/-- R17, R19: FCAUSE is 0 exactly while FAULT = 0; SBV is 0 beside causes 1 and 3. -/
def FaultFlagsAgree (s : State) : Prop :=
  (s.fault = false ↔ s.fcause = .none) ∧
  (s.fcause = .gfInconsistency → s.sbv = false) ∧
  (s.fcause = .sboxNotReady → s.sbv = false)

/-- R15: with no DERIVE completed since reset, P and Q hold their reset value 0x00. -/
def WalkRegistersIdle (s : State) : Prop := s.sbv = false → s.p = 0x00#8 ∧ s.q = 0x00#8

/-- R93: the fault of the integrity check has not happened. -/
def NoInconsistency (s : State) : Prop := s.fcause ≠ .gfInconsistency

/-! ## What an observer can tell apart -/

/-- R26: two states that agree on all that the host observes, on what it will present, and on SBOX and
ISBOX wherever SBV = 1. -/
structure Indistinguishable (s t : State) : Prop where
  sbv : s.sbv = t.sbv
  p : s.p = t.p
  q : s.q = t.q
  res : s.res = t.res
  fault : s.fault = t.fault
  fcause : s.fcause = t.fcause
  out : s.out = t.out
  host : s.host = t.host
  arrays : s.sbv = true → ∀ src i, memRead src i s = memRead src i t

/-- The walk after `k` steps from its start over an array (R83, R92). -/
def walkAfter (k : Nat) (sbox : Memory) : Walk := walkStep^[k] (walkStart sbox)

/-- The word of a named table at an index, over the arrays of a state (R100, R104, R106). -/
def tableEntry (table : NamedTable) (i : Byte) (s : State) : TableWord :=
  match table.expand with
  | .gentbl src m => tword (memRead src i s) m
  | _ => 0#32

/-- What the commands of the opcode map may emit (R18): TWORD and GENTBL and no other. -/
def emits : Instr → Bool
  | .gentbl _ _ => true
  | .tword _ _ => true
  | .gfadd _ _ => false
  | .gfmul _ _ => false
  | .derive => false
  | .rdsbox _ _ => false

/-- The commands that give a result in RES (R16): GFADD, GFMUL and RDSBOX. -/
def givesResult : Instr → Bool
  | .gfadd _ _ => true
  | .gfmul _ _ => true
  | .rdsbox _ _ => true
  | .derive => false
  | .gentbl _ _ => false
  | .tword _ _ => false

end Sys2Proof.Machine
end

