-- ==== Sys2Proof/Certificates/Slice0/Obligations.lean ====
section
/-!
DEFINITION. The statements for the provers, each a numbered rule of spec/ or derived from some. Where a
statement holds for every state it holds for states that no run reaches as well; where it could fail
only in such states it has an invariant as its premise, and that invariant is stated on its own.
-/

open Sys2Proof Sys2Proof.Machine

/-! ## The field: 40_gf_arithmetic.md -/

/-- R69: GFADD writes the exclusive or of its operands to RES and nothing else, is ignored while
FAULT = 1, is the word of format AB with OP = 0x01, and has the rule's corner cases and example. -/
def Obligations.GfaddWritesFieldSum : Prop :=
  (∀ (a b : Byte) (s : State), s.fault = false →
    exec (.gfadd a b) s = .next { s with res := a ^^^ b }) ∧
  (∀ (a b : Byte) (s : State), s.fault = true → exec (.gfadd a b) s = .next s) ∧
  (∀ a b : Byte, decode (0x01#8 ++ 0#24 ++ a ++ b) = .legal (.gfadd a b)) ∧
  (∀ a : Byte, add a a = 0x00#8 ∧ add a 0x00#8 = a) ∧
  (decode 0x010000005783#48 = .legal (.gfadd 0x57#8 0x83#8) ∧ add 0x57#8 0x83#8 = 0xD4#8)

/-- R70: GFMUL writes the field product of its operands to RES and nothing else, is ignored while
FAULT = 1, is the word of format AB with OP = 0x02, and has the rule's corner cases and example. -/
def Obligations.GfmulWritesFieldProduct : Prop :=
  (∀ (a b : Byte) (s : State), s.fault = false →
    exec (.gfmul a b) s = .next { s with res := multiply a b }) ∧
  (∀ (a b : Byte) (s : State), s.fault = true → exec (.gfmul a b) s = .next s) ∧
  (∀ a b : Byte, decode (0x02#8 ++ 0#24 ++ a ++ b) = .legal (.gfmul a b)) ∧
  (∀ a b : Byte, multiply 0x00#8 b = 0x00#8 ∧ multiply a 0x00#8 = 0x00#8 ∧
    multiply a 0x01#8 = a ∧ multiply 0x01#8 b = b) ∧
  (multiply 0xFF#8 0xFF#8 = 0x13#8) ∧
  (∀ a b : Byte, multiply a b = multiply b a) ∧
  (decode 0x020000005783#48 = .legal (.gfmul 0x57#8 0x83#8) ∧ multiply 0x57#8 0x83#8 = 0xC1#8)

/-- R66: xtime is the shift by one reduced by 0x1B exactly when bit 7 was 1, equal to the nine-bit
reduction by 0x11B (whose bit 8 is then 0) and to the product with 0x02; and the rule's values. -/
def Obligations.XtimeReducesByPolynomial : Prop :=
  (∀ a : Byte, xtime a =
    if a.getLsbD 7 then (((a.setWidth 9) <<< 1) ^^^ 0x1B#9).setWidth 8
    else ((a.setWidth 9) <<< 1).setWidth 8) ∧
  (∀ a : Byte, a.getLsbD 7 = true →
    (((a.setWidth 9) <<< 1) ^^^ 0x11B#9).getLsbD 8 = false ∧
    xtime a = (((a.setWidth 9) <<< 1) ^^^ 0x11B#9).setWidth 8) ∧
  (∀ a : Byte, xtime a = multiply a 0x02#8) ∧
  (xtime 0x00#8 = 0x00#8 ∧ xtime 0x01#8 = 0x02#8 ∧ xtime 0x40#8 = 0x80#8 ∧ xtime 0x7F#8 = 0xFE#8 ∧
    xtime 0x80#8 = 0x1B#8 ∧ xtime 0x8D#8 = 0x01#8 ∧ xtime 0xFF#8 = 0xE5#8)

/-- R76: the closed form of multiply. -/
def Obligations.MultiplyIsSumOfShiftedCopies : Prop :=
  ∀ a b : Byte, multiply a b =
    (List.range 8).foldl (fun r i => if b.getLsbD i then r ^^^ xtime^[i] a else r) 0x00#8

/-- R77: eight iterations are enough for every pair of operands, a nonzero byte never becomes zero by
xtime, and the exact iteration count. -/
def Obligations.MultiplyLoopBound : Prop :=
  (∀ (n : Nat) (a b : Byte), multiplyLoop (8 + n) a b 0x00#8 = multiply a b) ∧
  (∀ a : Byte, a ≠ 0x00#8 → xtime a ≠ 0x00#8) ∧
  (∀ (n : Nat) (a b : Byte), multiplyIterations (8 + n) a b ≤ 8) ∧
  (∀ (n : Nat) (a b : Byte), multiplyIterations (8 + n) a b =
    if a = 0x00#8 ∨ b = 0x00#8 then 0 else Nat.log2 b.toNat + 1)

/-- R72: multiply is commutative and associative. -/
def Obligations.MultiplyCommutesAndAssociates : Prop :=
  (∀ a b : Byte, multiply a b = multiply b a) ∧
  (∀ a b c : Byte, multiply (multiply a b) c = multiply a (multiply b c))

/-- R73: one and zero, on both sides. -/
def Obligations.MultiplyByOneAndZero : Prop :=
  ∀ x : Byte, multiply x 0x01#8 = x ∧ multiply x 0x00#8 = 0x00#8 ∧
    multiply 0x01#8 x = x ∧ multiply 0x00#8 x = 0x00#8

/-- R78: multiply distributes over add. -/
def Obligations.MultiplyDistributesOverAdd : Prop :=
  ∀ a b c : Byte, multiply a (add b c) = add (multiply a b) (multiply a c)

/-- R74: every nonzero x has exactly one inverse, zero has none, and the sample inverses. -/
def Obligations.NonzeroHasExactlyOneInverse : Prop :=
  (∀ x : Byte, x ≠ 0x00#8 → ∃! y : Byte, multiply x y = 0x01#8) ∧
  (∀ y : Byte, multiply 0x00#8 y ≠ 0x01#8) ∧
  (multiply 0x01#8 0x01#8 = 0x01#8 ∧ multiply 0x02#8 0x8D#8 = 0x01#8 ∧
    multiply 0x03#8 0xF6#8 = 0x01#8 ∧ multiply 0x04#8 0xCB#8 = 0x01#8 ∧
    multiply 0x05#8 0x52#8 = 0x01#8 ∧ multiply 0x53#8 0xCA#8 = 0x01#8 ∧
    multiply 0x80#8 0x83#8 = 0x01#8 ∧ multiply 0xFF#8 0x1C#8 = 0x01#8)

/-- R75: 0xF6 is the inverse of 0x03; the first 255 powers of each are the nonzero elements, each once,
the last of them 0x01; and 0x02 has order 51. -/
def Obligations.WalkConstantsGenerateTheGroup : Prop :=
  multiply 0x03#8 0xF6#8 = 0x01#8 ∧
  (∀ g : Byte, g = 0x03#8 ∨ g = 0xF6#8 →
    power g 255 = 0x01#8 ∧ (∀ k, power g k ≠ 0x00#8) ∧
    ∀ x : Byte, x ≠ 0x00#8 → ∃! k : Nat, (1 ≤ k ∧ k ≤ 255) ∧ power g k = x) ∧
  (power 0x02#8 51 = 0x01#8 ∧ ∀ k : Nat, 1 ≤ k → k < 51 → power 0x02#8 k ≠ 0x01#8)

/-- R71: add is commutative, associative, has identity 0x00, and every element is its own inverse. -/
def Obligations.AddIsAnElementaryGroup : Prop :=
  ∀ a b c : Byte, add a b = add b a ∧ add (add a b) c = add a (add b c) ∧
    add a 0x00#8 = a ∧ add a a = 0x00#8

/-! ## The S-box derivation: 41_sbox_derivation.md -/

/-- R81: for n = 1 to 4, rotl8 moves bit i to bit (i + n) mod 8; and the rule's examples. -/
def Obligations.RotationWrapsBits : Prop :=
  (∀ (x : Byte) (n i : Nat), 1 ≤ n → n ≤ 4 → i < 8 →
    (rotl8 x n).getLsbD ((i + n) % 8) = x.getLsbD i) ∧
  (rotl8 0xF6#8 1 = 0xED#8 ∧ rotl8 0xF6#8 2 = 0xDB#8 ∧ rotl8 0xF6#8 3 = 0xB7#8 ∧
    rotl8 0xF6#8 4 = 0x6F#8 ∧ rotl8 0x80#8 1 = 0x01#8 ∧ rotl8 0x01#8 4 = 0x10#8)

/-- R82: the affine transform is the exclusive or of q, its four rotations and 0x63; and the rule's
values. -/
def Obligations.AffineTransformValues : Prop :=
  (∀ q : Byte, affineXf q =
    q ^^^ q.rotateLeft 1 ^^^ q.rotateLeft 2 ^^^ q.rotateLeft 3 ^^^ q.rotateLeft 4) ∧
  (∀ q : Byte, affine q = affineXf q ^^^ 0x63#8) ∧
  (affineXf 0x00#8 = 0x00#8 ∧ affine 0x00#8 = 0x63#8 ∧ affineXf 0x01#8 = 0x1F#8 ∧
    affine 0x01#8 = 0x7C#8 ∧ affineXf 0xF6#8 = 0x18#8 ∧ affine 0xF6#8 = 0x7B#8 ∧
    affineXf 0xCA#8 = 0x8E#8 ∧ affine 0xCA#8 = 0xED#8 ∧ affineXf 0xFF#8 = 0xFF#8 ∧
    affine 0xFF#8 = 0x9C#8 ∧ affineXf 0x80#8 = 0x8F#8 ∧ affine 0x80#8 = 0xEC#8)

/-- R92: after k steps P is 0x03^k, Q is 0xF6^k, and they are inverses; whatever SBOX held. -/
def Obligations.WalkPairsAreInverses : Prop :=
  ∀ (k : Nat) (sbox : Memory),
    (walkAfter k sbox).p = power 0x03#8 k ∧ (walkAfter k sbox).q = power 0xF6#8 k ∧
    multiply (walkAfter k sbox).p (walkAfter k sbox).q = 0x01#8

/-- R86: the body runs exactly 255 times; P takes each nonzero value at exactly one step; each of
SBOX[1..255] is left with the byte its one step stored and SBOX[0] as it was; P and Q end at 0x01; and
the steps the rule lists. -/
def Obligations.WalkRunsExactly255Steps : Prop :=
  ∀ sbox : Memory,
    (∀ n, n < 255 → walk n (walkStart sbox) = .unfinished) ∧
    walk 255 (walkStart sbox) = .returned (walkAfter 255 sbox) ∧
    (walkAfter 255 sbox).p = 0x01#8 ∧ (walkAfter 255 sbox).q = 0x01#8 ∧
    (∀ x : Byte, x ≠ 0x00#8 → ∃! k : Nat, (1 ≤ k ∧ k ≤ 255) ∧ (walkAfter k sbox).p = x) ∧
    (∀ k : Nat, 1 ≤ k → k ≤ 255 →
      Memory.read (walkAfter 255 sbox).sbox (walkAfter k sbox).p.toNat =
        some (affineXf (walkAfter k sbox).q ^^^ 0x63#8)) ∧
    Memory.read (walkAfter 255 sbox).sbox 0 = Memory.read sbox 0 ∧
    ([1, 2, 3, 4, 255].map fun k =>
        ((walkAfter k sbox).p, (walkAfter k sbox).q, affineXf (walkAfter k sbox).q,
          affine (walkAfter k sbox).q)) =
      [(0x03#8, 0xF6#8, 0x18#8, 0x7B#8), (0x05#8, 0x52#8, 0x08#8, 0x6B#8),
       (0x0F#8, 0xC7#8, 0x15#8, 0x76#8), (0x11#8, 0xB4#8, 0xE1#8, 0x82#8),
       (0x01#8, 0x01#8, 0x1F#8, 0x7C#8)]

/-- R85, R116 (GfInconsistency): a step whose pair fails the check ends the walk at that step, with P, Q
and SBOX as the step left them; DERIVE then leaves SBV = 0 and ISBOX, RES and OUT as they were. The
walk may start at any pair, so the premise can hold. That the other bytes of SBOX, and those of ISBOX, are kept
as data is the model's choice (notes/assumptions/7.md). -/
def Obligations.FailedCheckEndsDerivation : Prop :=
  ∀ (n : Nat) (w : Walk) (s : State), multiply (walkStep w).p (walkStep w).q ≠ 0x01#8 →
    walk (n + 1) w = .inconsistent (walkStep w) ∧
    finishDerive { s with sbv := false } (walk (n + 1) w) =
      .next { s with sbv := false, p := (walkStep w).p, q := (walkStep w).q, sbox := (walkStep w).sbox,
                     fault := true, fcause := .gfInconsistency }

/-- R93: no walk of DERIVE fails its check, and no step brings the cause GfInconsistency about. -/
def Obligations.IntegrityFaultNeverHappens : Prop :=
  (∀ (n : Nat) (sbox : Memory) (w : Walk), walk n (walkStart sbox) ≠ .inconsistent w) ∧
  (∀ s t : State, NoInconsistency s → step s = .next t → NoInconsistency t)

/-- R88: DERIVE completes in every state with FAULT = 0, whatever SBV and the arrays are; both arrays
hold the printed S-boxes, SBV = 1, P = Q = 0x01, and nothing else changes. It is ignored while
FAULT = 1, its word is 0x03 and zeros, a second DERIVE changes nothing (as data, from canonical
arrays), and the rule's example holds. -/
def Obligations.DeriveFillsBothArrays : Prop :=
  (∀ s : State, s.fault = false → ∃ t : State, exec .derive s = .next t ∧
    t = { s with sbox := t.sbox, isbox := t.isbox, sbv := true, p := 0x01#8, q := 0x01#8 } ∧
    ∀ (src : Source) (i : Byte), memRead src i t = printedBox src i) ∧
  (∀ s : State, s.fault = true → exec .derive s = .next s) ∧
  decode (0x03#8 ++ 0#40) = .legal .derive ∧
  (∀ s t : State, ArraysCanonical s → s.fault = false → exec .derive s = .next t →
    exec .derive t = .next t) ∧
  (∃ t : State, exec .derive State.reset = .next t ∧ t.sbv = true ∧ t.p = 0x01#8 ∧ t.q = 0x01#8 ∧
    status t = 0x02#8 ∧ memRead .s 0x53#8 t = 0xED#8 ∧ memRead .si 0xED#8 t = 0x53#8 ∧
    t.res = 0x00#8 ∧ t.out = [])

/-- R88 (corner cases): DERIVE does not depend on the old contents of SBOX, ISBOX, P, Q or RES: from any
two states with canonical arrays it leaves the same arrays, as data. -/
def Obligations.DeriveForgetsOldContents : Prop :=
  ∀ s t s' t' : State, ArraysCanonical s → ArraysCanonical t → s.fault = false → t.fault = false →
    exec .derive s = .next s' → exec .derive t = .next t' → s'.sbox = t'.sbox ∧ s'.isbox = t'.isbox

/-- R90: after DERIVE, SBOX is a permutation of 0..255, entry 0 is 0x63, ISBOX inverts it on both sides,
and it has no fixed point. -/
def Obligations.DerivedBoxesAreInversePermutations : Prop :=
  ∀ s : State, s.fault = false → ∃ t : State, exec .derive s = .next t ∧
    Function.Bijective (fun i => memRead .s i t) ∧
    memRead .s 0x00#8 t = 0x63#8 ∧
    (∀ i, memRead .si (memRead .s i t) t = i) ∧
    (∀ i, memRead .s (memRead .si i t) t = i) ∧
    (∀ i, memRead .s i t ≠ i) ∧
    (∀ src i, memRead src i t = printedBox src i)

/-- R91: the known values of both S-boxes, and the walk steps that store two of them. -/
def Obligations.DerivedBoxesHaveKnownValues : Prop :=
  ∀ s : State, s.fault = false → ∃ t : State, exec .derive s = .next t ∧
    memRead .s 0x00#8 t = 0x63#8 ∧ memRead .s 0x01#8 t = 0x7C#8 ∧ memRead .s 0x53#8 t = 0xED#8 ∧
    memRead .s 0x02#8 t = 0x77#8 ∧ memRead .s 0x03#8 t = 0x7B#8 ∧ memRead .s 0x10#8 t = 0xCA#8 ∧
    memRead .s 0x52#8 t = 0x00#8 ∧ memRead .s 0xFF#8 t = 0x16#8 ∧
    memRead .si 0x00#8 t = 0x52#8 ∧ memRead .si 0x01#8 t = 0x09#8 ∧ memRead .si 0x63#8 t = 0x00#8 ∧
    memRead .si 0x7C#8 t = 0x01#8 ∧ memRead .si 0xED#8 t = 0x53#8 ∧ memRead .si 0xFF#8 t = 0x7D#8 ∧
    (walkAfter 255 s.sbox).p = 0x01#8 ∧ (walkAfter 255 s.sbox).q = 0x01#8 ∧
    (walkAfter 48 s.sbox).p = 0x53#8 ∧ (walkAfter 48 s.sbox).q = 0xCA#8

/-- R89: RDSBOX writes the selected array's entry IDX to RES and nothing else; with SBV = 0 it raises
SboxNotReady and changes nothing else; it is ignored while FAULT = 1; its word is of format X with
OP = 0x05; and the rule's example. -/
def Obligations.RdsboxReadsSelectedEntry : Prop :=
  (∀ (idx : Byte) (s : State), s.fault = false → s.sbv = true →
    exec (.rdsbox .s idx) s = .next { s with res := entryOf .s s.sbox idx } ∧
    exec (.rdsbox .si idx) s = .next { s with res := entryOf .si s.isbox idx }) ∧
  (∀ (src : Source) (idx : Byte) (s : State), s.fault = false → s.sbv = false →
    exec (.rdsbox src idx) s = .next { s with fault := true, fcause := .sboxNotReady }) ∧
  (∀ (src : Source) (idx : Byte) (s : State), s.fault = true → exec (.rdsbox src idx) s = .next s) ∧
  (∀ (src : Source) (idx : Byte),
    decode (0x05#8 ++ 0#7 ++ src.bit ++ 0#24 ++ idx) = .legal (.rdsbox src idx)) ∧
  (∀ s t : State, s.fault = false → exec .derive s = .next t →
    exec (.rdsbox .s 0x53#8) t = .next { t with res := 0xED#8 } ∧
    exec (.rdsbox .si 0xED#8) t = .next { t with res := 0x53#8 } ∧
    exec (.rdsbox .s 0x00#8) t = .next { t with res := 0x63#8 })

/-! ## The table generator: 42_table_generator.md and R31 -/

/-- R31: pack_be puts byte0 in bits 31:24 and byte3 in bits 7:0, and equals the shifted sum. -/
def Obligations.PackingIsBigEndian : Prop :=
  (∀ b0 b1 b2 b3 : Byte,
    packBe b0 b1 b2 b3 = ((b0.setWidth 32) <<< 24) ||| ((b1.setWidth 32) <<< 16) |||
      ((b2.setWidth 32) <<< 8) ||| (b3.setWidth 32)) ∧
  (∀ b0 b1 b2 b3 : Byte,
    (packBe b0 b1 b2 b3).extractLsb' 24 8 = b0 ∧ (packBe b0 b1 b2 b3).extractLsb' 16 8 = b1 ∧
    (packBe b0 b1 b2 b3).extractLsb' 8 8 = b2 ∧ (packBe b0 b1 b2 b3).extractLsb' 0 8 = b3) ∧
  packBe 0xC6#8 0x63#8 0x63#8 0xA5#8 = 0xC66363A5#32

/-- R97: tword packs the four products of the one byte, byte0 the product with m0; and the rule's
examples. -/
def Obligations.TwordPacksFourProducts : Prop :=
  (∀ (x : Byte) (m : MulVec), tword x m =
    packBe (multiply x m.m0) (multiply x m.m1) (multiply x m.m2) (multiply x m.m3)) ∧
  (tword 0x63#8 ⟨2, 1, 1, 3⟩ = 0xC66363A5#32 ∧ tword 0x63#8 ⟨1, 1, 1, 1⟩ = 0x63636363#32 ∧
    tword 0x63#8 ⟨1, 1, 3, 2⟩ = 0x6363A5C6#32 ∧ tword 0x52#8 ⟨14, 9, 13, 11⟩ = 0x51F4A750#32 ∧
    tword 0x00#8 ⟨2, 1, 1, 3⟩ = 0x00000000#32 ∧ tword 0x01#8 ⟨14, 9, 13, 11⟩ = 0x0E090D0B#32 ∧
    tword 0xFF#8 ⟨0xFF, 0x00, 0x01, 0x02⟩ = 0x1300FFE5#32)

/-- R98: byte k of a table word is the product of the shared byte with the multiplier of lane k alone,
so changing the other multipliers does not change it. -/
def Obligations.TableLanesAreIndependent : Prop :=
  (∀ (x : Byte) (m : MulVec) (k : Nat), k < 4 →
    (tword x m).extractLsb' (24 - 8 * k) 8 = multiply x (laneOf k m)) ∧
  (∀ (x : Byte) (m n : MulVec) (k : Nat), k < 4 → laneOf k m = laneOf k n →
    (tword x m).extractLsb' (24 - 8 * k) 8 = (tword x n).extractLsb' (24 - 8 * k) 8)

/-- R99: TWORD appends one word to OUT and changes nothing else, whatever SBV is; it is ignored while
FAULT = 1; its word is of format W with OP = 0x06; and the rule's corner cases and example. -/
def Obligations.TwordEmitsOneWord : Prop :=
  (∀ (x : Byte) (m : MulVec) (s : State), s.fault = false →
    exec (.tword x m) s = .next { s with out := s.out ++ [tword x m] }) ∧
  (∀ (x : Byte) (m : MulVec) (s : State), s.fault = true → exec (.tword x m) s = .next s) ∧
  (∀ (x : Byte) (m : MulVec), decode (0x06#8 ++ x ++ (m.m0 ++ m.m1 ++ m.m2 ++ m.m3)) =
    .legal (.tword x m)) ∧
  (∀ m : MulVec, tword 0x00#8 m = 0x00000000#32) ∧
  (∀ (x : Byte) (m : MulVec) (k : Nat), k < 4 →
    (laneOf k m = 0x00#8 → byteOf k (tword x m) = 0x00#8) ∧
    (laneOf k m = 0x01#8 → byteOf k (tword x m) = x)) ∧
  (decode 0x066302010103#48 = .legal (.tword 0x63#8 ⟨2, 1, 1, 3⟩) ∧
    exec (.tword 0x63#8 ⟨2, 1, 1, 3⟩) State.reset = .next { State.reset with out := [0xC66363A5#32] })

/-- R100, R101: with FAULT = 0 and SBV = 1, GENTBL appends exactly 256 words to OUT, word i being
`tword` of the selected array's entry i, and changes nothing else; with SBV = 0 it raises SboxNotReady
and emits nothing; it is ignored while FAULT = 1; its word is of format T with OP = 0x04; and the
rule's corner cases and example. -/
def Obligations.GentblEmitsWholeTable : Prop :=
  (∀ (src : Source) (m : MulVec) (s : State), s.fault = false → s.sbv = true →
    ∃ ws : List TableWord, exec (.gentbl src m) s = .next { s with out := s.out ++ ws } ∧
      ws.length = 256 ∧
      ∀ i : Byte, ws[i.toNat]? = some (tword (entryOf src (s.array src) i) m)) ∧
  (∀ (src : Source) (m : MulVec) (s : State), s.fault = false → s.sbv = false →
    exec (.gentbl src m) s = .next { s with fault := true, fcause := .sboxNotReady }) ∧
  (∀ (src : Source) (m : MulVec) (s : State), s.fault = true → exec (.gentbl src m) s = .next s) ∧
  (∀ (src : Source) (m : MulVec),
    decode (0x04#8 ++ 0#7 ++ src.bit ++ (m.m0 ++ m.m1 ++ m.m2 ++ m.m3)) = .legal (.gentbl src m)) ∧
  (∀ s : State, s.array .s = s.sbox ∧ s.array .si = s.isbox) ∧
  (∀ s t : State, s.fault = false → exec .derive s = .next t →
    ∃ ws : List TableWord,
      exec (.gentbl .s ⟨2, 1, 1, 3⟩) t = .next { t with out := t.out ++ ws } ∧
      ws.take 4 = [0xC66363A5#32, 0xF87C7C84#32, 0xEE777799#32, 0xF67B7B8D#32] ∧
      ws.drop 254 = [0x6DBBBBD6#32, 0x2C16163A#32]) ∧
  (∀ x : Byte, tword x ⟨0, 0, 0, 0⟩ = 0x00000000#32) ∧
  (∀ (s t : State) (m : MulVec), s.fault = false → exec .derive s = .next t →
    tword (memRead .s 0x52#8 t) m = 0x00000000#32 ∧ tword (memRead .si 0x63#8 t) m = 0x00000000#32) ∧
  (∀ (src : Source) (m : MulVec) (s t : State), s.fault = false → s.sbv = true →
    exec (.gentbl src m) s = .next t →
    exec (.gentbl src m) t = .next { t with out := t.out ++ t.out.drop s.out.length })

/-- R105: with the vector (1,1,1,1) every word is its S-box byte four times over. -/
def Obligations.UnitVectorCopiesTheByte : Prop :=
  ∀ (src : Source) (s : State), s.fault = false → s.sbv = true →
    exec (.gentbl src ⟨1, 1, 1, 1⟩) s = .next { s with out := s.out ++ indexes.map fun i =>
      (memRead src i s ++ memRead src i s ++ memRead src i s ++ memRead src i s : BitVec 32) }

/-- R106: the words of Te1, Te2, Te3 (Td1, Td2, Td3) are those of Te0 (Td0) rotated right by 8, 16 and 24
bits, in every state; and the bytes of a Te0 word. -/
def Obligations.RotatedVectorsRotateWords : Prop :=
  ∀ (s : State) (i : Byte),
    tableEntry .te1 i s = (tableEntry .te0 i s).rotateRight 8 ∧
    tableEntry .te2 i s = (tableEntry .te0 i s).rotateRight 16 ∧
    tableEntry .te3 i s = (tableEntry .te0 i s).rotateRight 24 ∧
    tableEntry .td1 i s = (tableEntry .td0 i s).rotateRight 8 ∧
    tableEntry .td2 i s = (tableEntry .td0 i s).rotateRight 16 ∧
    tableEntry .td3 i s = (tableEntry .td0 i s).rotateRight 24 ∧
    byteOf 0 (tableEntry .te0 i s) = xtime (memRead .s i s) ∧
    byteOf 1 (tableEntry .te0 i s) = memRead .s i s ∧
    byteOf 2 (tableEntry .te0 i s) = memRead .s i s ∧
    byteOf 3 (tableEntry .te0 i s) = byteOf 0 (tableEntry .te0 i s) ^^^ memRead .s i s

/-- R107: the first entries of the ten tables after DERIVE; Te0[0] is 0xC66363A5 and not the literal
0x6363A5C6 (90_conflicts.md C1). -/
def Obligations.FirstTableEntries : Prop :=
  ∀ s : State, s.fault = false → ∃ t : State, exec .derive s = .next t ∧
    (NamedTable.all.map fun table => tableEntry table 0x00#8 t) =
      [0xC66363A5#32, 0xA5C66363#32, 0x63A5C663#32, 0x6363A5C6#32, 0x63636363#32,
       0x51F4A750#32, 0x5051F4A7#32, 0xA75051F4#32, 0xF4A75051#32, 0x52525252#32]

/-- R59, R104: the ten pseudo-instructions, the one command each expands to and its word. -/
def Obligations.NamedTablesHaveTheirWords : Prop :=
  (NamedTable.all.map fun table => encode table.expand) =
    [0x040002010103#48, 0x040003020101#48, 0x040001030201#48, 0x040001010302#48, 0x040001010101#48,
     0x04010E090D0B#48, 0x04010B0E090D#48, 0x04010D0B0E09#48, 0x0401090D0B0E#48, 0x040101010101#48] ∧
  (NamedTable.all.map fun table => table.expand) =
    [.gentbl .s ⟨2, 1, 1, 3⟩, .gentbl .s ⟨3, 2, 1, 1⟩, .gentbl .s ⟨1, 3, 2, 1⟩, .gentbl .s ⟨1, 1, 3, 2⟩,
     .gentbl .s ⟨1, 1, 1, 1⟩, .gentbl .si ⟨14, 9, 13, 11⟩, .gentbl .si ⟨11, 14, 9, 13⟩,
     .gentbl .si ⟨13, 11, 14, 9⟩, .gentbl .si ⟨9, 13, 11, 14⟩, .gentbl .si ⟨1, 1, 1, 1⟩] ∧
  (["TE0", "TE1", "TE2", "TE3", "TE4", "TD0", "TD1", "TD2", "TD3", "TD4"].map assembleLine) =
    NamedTable.all.map (fun table => .presents (.command (encode table.expand)))

/-- R108: with FAULT = 0 and SBV = 1 each of the ten commands appends exactly 256 words to OUT and
leaves every state element unchanged, the words being those of its table. -/
def Obligations.EachNamedTableEmits256Words : Prop :=
  ∀ (table : NamedTable) (s : State), s.fault = false → s.sbv = true →
    ∃ ws : List TableWord, exec table.expand s = .next { s with out := s.out ++ ws } ∧
      ws.length = 256 ∧ ∀ i : Byte, ws[i.toNat]? = some (tableEntry table i s)

/-! ## Encoding: 30_encoding.md -/

/-- R57: decode and encode are inverse on the legal words; every operand at every value its field
admits. -/
def Obligations.DecodeAndEncodeAreInverse : Prop :=
  (∀ i : Instr, i.wf = true → decode (encode i) = .legal i) ∧
  (∀ (cw : CommandWord) (i : Instr), decode cw = .legal i → encode i = cw) ∧
  (∀ cw : CommandWord, (∃ i, decode cw = .legal i) ∨ ∃ why, decode cw = .illegal why)

/-- R53, R54: a word is a command exactly when it matches a row of the opcode map under the row's mask,
it matches no other row, and the row it matches is its command's. -/
def Obligations.DecodeFollowsOpcodeMap : Prop :=
  (∀ cw : CommandWord, (∃ i, decode cw = .legal i) ↔ ∃ row ∈ opcodeRows, cw &&& row.mask = row.pattern) ∧
  (∀ cw : CommandWord, ∀ row ∈ opcodeRows, ∀ other ∈ opcodeRows,
    cw &&& row.mask = row.pattern → cw &&& other.mask = other.pattern → row = other) ∧
  (∀ (cw : CommandWord) (i : Instr), decode cw = .legal i → cw &&& i.row.mask = i.row.pattern) ∧
  (∀ cw : CommandWord, cw.extractLsb' 40 8 = 0x00#8 ∨ 0x07#8 ≤ cw.extractLsb' 40 8 →
    decode cw = .illegal .reservedOpcode)

/-- R58: the rule's seven examples, as words of the decoder and of the encoder. -/
def Obligations.ExampleWordsDecode : Prop :=
  (decode 0x020000005783#48 = .legal (.gfmul 0x57#8 0x83#8) ∧
    decode 0x030000000000#48 = .legal .derive ∧
    decode 0x040002010103#48 = .legal (.gentbl .s ⟨2, 1, 1, 3⟩) ∧
    decode 0x04010E090D0B#48 = .legal (.gentbl .si ⟨14, 9, 13, 11⟩) ∧
    decode 0x050000000053#48 = .legal (.rdsbox .s 0x53#8) ∧
    decode 0x0501000000ED#48 = .legal (.rdsbox .si 0xED#8) ∧
    decode 0x066302010103#48 = .legal (.tword 0x63#8 ⟨2, 1, 1, 3⟩) ∧
    decode 0x010000005783#48 = .legal (.gfadd 0x57#8 0x83#8)) ∧
  (decode 0x000000000000#48 = .illegal .reservedOpcode ∧
    decode 0x010000010000#48 = .illegal .reservedBit ∧
    decode 0x038000000000#48 = .illegal .reservedBit ∧
    decode 0x040202010103#48 = .illegal .reservedBit ∧
    decode 0x050000000153#48 = .illegal .reservedBit ∧
    decode 0x070000000000#48 = .illegal .reservedOpcode)

/-- R58, R60: lines of the assembler and what they make the host present. -/
def Obligations.AssemblerExamples : Prop :=
  assembleLine "GFMUL 0x57, 0x83" = .presents (.command 0x020000005783#48) ∧
  assembleLine "GFADD 87,131 ; the same bytes in decimal" = .presents (.command 0x010000005783#48) ∧
  assembleLine "DERIVE" = .presents (.command 0x030000000000#48) ∧
  assembleLine "GENTBL SI, 14, 9, 13, 11" = .presents (.command 0x04010E090D0B#48) ∧
  assembleLine "RDSBOX SI, 0xED" = .presents (.command 0x0501000000ED#48) ∧
  assembleLine "TWORD 0x63, 2, 1, 1, 3" = .presents (.command 0x066302010103#48) ∧
  assembleLine "TE0" = .presents (.command 0x040002010103#48) ∧
  assembleLine "TD3" = .presents (.command 0x0401090D0B0E#48) ∧
  assembleLine "RESET" = .presents .reset ∧
  assembleLine "GFADD 0x57, 256" = .malformed ∧
  assembleLine "gfadd 1, 2" = .malformed ∧
  assembleLine "; nothing" = .blank

/-! ## Faults: 60_exceptions.md -/

/-- R113: RDSBOX and GENTBL with SBV = 0 raise SboxNotReady before any array is read, before RES is
written and before any word is emitted. -/
def Obligations.TablesBeforeDeriveFault : Prop :=
  ∀ (src : Source) (idx : Byte) (m : MulVec) (s : State), s.fault = false → s.sbv = false →
    exec (.rdsbox src idx) s = .next { s with fault := true, fcause := .sboxNotReady } ∧
    exec (.gentbl src m) s = .next { s with fault := true, fcause := .sboxNotReady }

/-- R55, R112: a word that decodes to ILLEGAL, or matches no row of the opcode map, raises
IllegalCommand when presented while FAULT = 0, and no state other than FAULT and FCAUSE changes; words
with OP = 0x00 or OP from 0x07 are such words, the all-zero word among them. -/
def Obligations.IllegalWordFaults : Prop :=
  (∀ (cw : CommandWord) (why : Illegal) (rest : List HostEvent) (s : State),
    s.host = .command cw :: rest → s.fault = false → decode cw = .illegal why →
    step s = .next { s with host := rest, fault := true, fcause := .illegalCommand }) ∧
  (∀ (cw : CommandWord) (rest : List HostEvent) (s : State),
    s.host = .command cw :: rest → s.fault = false →
    (∀ row ∈ opcodeRows, cw &&& row.mask ≠ row.pattern) →
    step s = .next { s with host := rest, fault := true, fcause := .illegalCommand }) ∧
  (∀ cw : CommandWord, cw.extractLsb' 40 8 = 0x00#8 ∨ 0x07#8 ≤ cw.extractLsb' 40 8 →
    ∀ row ∈ opcodeRows, cw &&& row.mask ≠ row.pattern) ∧
  decode 0x000000000000#48 = .illegal .reservedOpcode

/-- R117: while FAULT = 1 every command and every presented word, legal or illegal, leaves the state
unchanged, and CMD_READY is 0. -/
def Obligations.FaultStateIgnoresCommands : Prop :=
  (∀ s : State, s.fault = true → cmdReady s = false) ∧
  (∀ (i : Instr) (s : State), s.fault = true → exec i s = .next s) ∧
  (∀ (cw : CommandWord) (s : State), s.fault = true → presentWord cw s = .next s) ∧
  (∀ (cw : CommandWord) (rest : List HostEvent) (s : State), s.host = .command cw :: rest →
    s.fault = true → step s = .next { s with host := rest })

/-- R115: the order of the checks: ignored while FAULT = 1; then IllegalCommand, whatever SBV is; then
SboxNotReady for RDSBOX and GENTBL; and GFADD, GFMUL, TWORD and DERIVE raise no fault. -/
def Obligations.ChecksAreMadeInOrder : Prop :=
  ∀ (cw : CommandWord) (s : State),
    (s.fault = true → presentWord cw s = .next s) ∧
    (∀ why, s.fault = false → decode cw = .illegal why →
      presentWord cw s = .next { s with fault := true, fcause := .illegalCommand }) ∧
    (∀ src m, s.fault = false → decode cw = .legal (.gentbl src m) → s.sbv = false →
      presentWord cw s = .next { s with fault := true, fcause := .sboxNotReady }) ∧
    (∀ src idx, s.fault = false → decode cw = .legal (.rdsbox src idx) → s.sbv = false →
      presentWord cw s = .next { s with fault := true, fcause := .sboxNotReady }) ∧
    (∀ i, s.fault = false → decode cw = .legal i →
      (∀ src m, i = .gentbl src m → s.sbv = true) → (∀ src idx, i = .rdsbox src idx → s.sbv = true) →
      ∃ t : State, presentWord cw s = .next t ∧ t.fault = false ∧ t.fcause = s.fcause)

/-- R118, R119: in the fault state, unless the host asserts reset or power is lost, a step keeps FAULT
and FCAUSE: the first cause stays the only one. -/
def Obligations.FirstCauseStaysUntilReset : Prop :=
  ∀ s t : State, s.fault = true → step s = .next t →
    (∀ rest, s.host ≠ .reset :: rest) → (∀ cw n rest, s.host ≠ .resetDuring cw n :: rest) →
    (∀ rest, s.host ≠ .powerCycle :: rest) →
    t.fault = true ∧ t.fcause = s.fcause

/-- R6, R77, R86, R114: every command and every step completes: nothing in the model ever stops. -/
def Obligations.EveryCommandCompletes : Prop :=
  (∀ (i : Instr) (s : State), ∃ t : State, exec i s = .next t) ∧
  (∀ s : State, ∃ t : State, step s = .next t)

/-! ## Reset: 10_state.md R24 and 70_reset_and_hazards.md -/

/-- R129 (derived): a reset event, in any state (the fault state too), writes its six elements and leaves
OUT as it was; CMD_READY is 1 afterwards. That SBOX and ISBOX hold the same bytes afterwards is the
model's choice (notes/assumptions/7.md, decision D14): R129 does not write them and calls their contents
unspecified. -/
def Obligations.ResetEventClearsState : Prop :=
  (∀ (rest : List HostEvent) (s : State), s.host = .reset :: rest →
    step s = .next { s with host := rest, fault := false, fcause := .none, sbv := false,
                            p := 0x00#8, q := 0x00#8, res := 0x00#8 }) ∧
  (∀ s : State, cmdReady (resetEvent s) = true ∧ status (resetEvent s) = 0x00#8)

/-- R24 (derived): the values after a reset event that the rule states, and the STATUS they show, in the
model's state after power-on and reset and after a reset event in any state. That SBOX and ISBOX hold the
same bytes after the event is the model's choice (notes/assumptions/7.md, decision D14): R24 says
"unspecified, not cleared", and R129 that reset does not write them. -/
def Obligations.ResetStateHasStatedValues : Prop :=
  (∀ s : State, (resetEvent s).sbv = false ∧ (resetEvent s).p = 0x00#8 ∧ (resetEvent s).q = 0x00#8 ∧
    (resetEvent s).res = 0x00#8 ∧ (resetEvent s).fault = false ∧ (resetEvent s).fcause = .none ∧
    status (resetEvent s) = 0x00#8 ∧ (resetEvent s).out = s.out ∧
    (resetEvent s).sbox = s.sbox ∧ (resetEvent s).isbox = s.isbox) ∧
  State.reset.sbv = false ∧ State.reset.p = 0x00#8 ∧ State.reset.q = 0x00#8 ∧
  State.reset.res = 0x00#8 ∧ State.reset.fault = false ∧ State.reset.fcause = .none ∧
  status State.reset = 0x00#8 ∧ State.reset.out = []

/-- R130 (derived; notes/assumptions/5.md): RST during a command leaves the registers and flags of R129;
the words emitted by then stay in OUT, a prefix of those the command would have emitted. -/
def Obligations.InterruptedCommandKeepsEmittedWords : Prop :=
  ∀ (cw : CommandWord) (n : Nat) (rest : List HostEvent) (i : Instr) (s : State),
    s.host = .resetDuring cw n :: rest → decode cw = .legal i →
    ∃ t u : State, exec i { s with host := rest } = .next u ∧ step s = .next t ∧
      t.host = rest ∧ t.sbv = false ∧ t.p = 0x00#8 ∧ t.q = 0x00#8 ∧ t.res = 0x00#8 ∧
      t.fault = false ∧ t.fcause = .none ∧
      s.out <+: t.out ∧ t.out <+: u.out ∧ t.out.length = min (s.out.length + n) u.out.length

/-- R127, R128 (derived; notes/assumptions/6.md): a power cycle leaves the state of power-on and reset. -/
def Obligations.PowerCycleLosesEverything : Prop :=
  ∀ (rest : List HostEvent) (s : State), s.host = .powerCycle :: rest →
    step s = .next { State.reset with host := rest }

/-! ## Steps, status and invariants -/

/-- R6, R57, R115: when the next word presented decodes to a well-formed command, a step is that command
on the state with the word taken; and the same of a word placed by `withFetchWord`. -/
def Obligations.StepRunsDecodedCommand : Prop :=
  (∀ (cw : CommandWord) (rest : List HostEvent) (i : Instr) (s : State),
    s.host = .command cw :: rest → decode cw = .legal i → i.wf = true →
    step s = exec i { s with host := rest }) ∧
  (∀ (nbits w : Nat) (i : Instr) (s : State), decodeTableWord nbits w = some i →
    step (s.withFetchWord nbits w) = exec i s)

/-- R127 (derived; notes/assumptions/4.md): with nothing presented CORE keeps all its state. -/
def Obligations.IdleKeepsState : Prop :=
  ∀ s : State, s.host = [] → step s = .next s

/-- R19: the fields of STATUS, and its value by cause where the flags agree (an invariant of its own). -/
def Obligations.StatusFieldsAndValues : Prop :=
  (∀ s : State, (status s).getLsbD 0 = s.fault ∧ (status s).getLsbD 1 = s.sbv ∧
    (status s).extractLsb' 2 2 = s.fcause.code ∧ (status s).extractLsb' 4 4 = 0#4) ∧
  (∀ s : State, FaultFlagsAgree s →
    (s.fcause = .none → status s = if s.sbv then 0x02#8 else 0x00#8) ∧
    (s.fcause = .gfInconsistency → status s = 0x05#8) ∧
    (s.fcause = .illegalCommand → status s = if s.sbv then 0x0B#8 else 0x09#8) ∧
    (s.fcause = .sboxNotReady → status s = 0x0D#8)) ∧
  (Cause.none.code = 0#2 ∧ Cause.gfInconsistency.code = 1#2 ∧ Cause.illegalCommand.code = 2#2 ∧
    Cause.sboxNotReady.code = 3#2)

/-- R17, R19: every step keeps FCAUSE at 0 exactly while FAULT = 0, and SBV at 0 beside causes 1 and 3. -/
def Obligations.FaultFlagsKeepAgreeing : Prop :=
  ∀ s t : State, FaultFlagsAgree s → step s = .next t → FaultFlagsAgree t

/-- The model's arrays (derived; notes/assumptions/2.md): every step keeps both in canonical form. -/
def Obligations.StepsKeepArraysCanonical : Prop :=
  ∀ s t : State, ArraysCanonical s → step s = .next t → ArraysCanonical t

/-- R22: every step keeps the invariant that whenever SBV = 1 the arrays are the derived S-boxes, a
permutation and its inverse with S[0] = 0x63, and P = Q = 0x01. -/
def Obligations.StepsKeepSboxInvariant : Prop :=
  ∀ s t : State, SboxInvariant s → step s = .next t → SboxInvariant t

/-- R15: every step keeps P = Q = 0x00 while SBV = 0, so that P = 0x00 tells that no DERIVE has
completed since reset. -/
def Obligations.StepsKeepIdleWalkRegisters : Prop :=
  ∀ s t : State, WalkRegistersIdle s → step s = .next t → WalkRegistersIdle t

/-- The invariants hold at reset. -/
def Obligations.ResetStateMeetsInvariants : Prop :=
  ArraysCanonical State.reset ∧ SboxInvariant State.reset ∧ FaultFlagsAgree State.reset ∧
  WalkRegistersIdle State.reset ∧ NoInconsistency State.reset

/-- R13, R26: states that agree on what is observed, and on the arrays wherever SBV = 1, stay so: no step
lets anything depend on the arrays' contents while SBV = 0, nor on a free value. -/
def Obligations.UnspecifiedContentsAreUnobservable : Prop :=
  ∀ s t s' : State, Indistinguishable s t → step s = .next s' →
    ∃ t' : State, step t = .next t' ∧ Indistinguishable s' t'

/-- R18: only TWORD and GENTBL emit; no command removes a word; a step other than a power cycle only
adds words at the end of OUT; and a reset event neither adds nor removes one. -/
def Obligations.OutOnlyGrowsAtItsEnd : Prop :=
  (∀ (i : Instr) (s t : State), exec i s = .next t → emits i = false → t.out = s.out) ∧
  (∀ (i : Instr) (s t : State), exec i s = .next t → s.out <+: t.out) ∧
  (∀ s t : State, step s = .next t → (∀ rest, s.host ≠ .powerCycle :: rest) → s.out <+: t.out) ∧
  (∀ s : State, (resetEvent s).out = s.out) ∧
  State.reset.out = []

/-- R27: the write sets of the commands. -/
def Obligations.CommandsWriteOnlyTheirSets : Prop :=
  (∀ (a b : Byte) (s t : State), exec (.gfadd a b) s = .next t ∨ exec (.gfmul a b) s = .next t →
    t = { s with res := t.res }) ∧
  (∀ s t : State, exec .derive s = .next t →
    t = { s with sbox := t.sbox, isbox := t.isbox, sbv := t.sbv, p := t.p, q := t.q,
                 fault := t.fault, fcause := t.fcause }) ∧
  (∀ (src : Source) (idx : Byte) (s t : State), exec (.rdsbox src idx) s = .next t →
    t = { s with res := t.res, fault := t.fault, fcause := t.fcause } ∧
    (t.fault = true → t.res = s.res)) ∧
  (∀ (src : Source) (m : MulVec) (s t : State), exec (.gentbl src m) s = .next t →
    t = { s with fault := t.fault, fcause := t.fcause, out := t.out } ∧
    (t.fault = true → t.out = s.out)) ∧
  (∀ (x : Byte) (m : MulVec) (s t : State), exec (.tword x m) s = .next t →
    t = { s with out := t.out })

/-- R16: RES changes only by a GFADD, GFMUL or RDSBOX that completes; DERIVE, GENTBL, TWORD, a faulting
command, an illegal word and an ignored word leave it. -/
def Obligations.ResHoldsTheLastResult : Prop :=
  (∀ (i : Instr) (s t : State), exec i s = .next t → givesResult i = false → t.res = s.res) ∧
  (∀ (cw : CommandWord) (s t : State), presentWord cw s = .next t → t.fault = true → t.res = s.res) ∧
  (∀ (a b : Byte) (s : State), s.fault = false →
    exec (.gfadd a b) s = .next { s with res := add a b } ∧
    exec (.gfmul a b) s = .next { s with res := multiply a b }) ∧
  (∀ (src : Source) (idx : Byte) (s : State), s.fault = false → s.sbv = true →
    exec (.rdsbox src idx) s = .next { s with res := memRead src idx s })

/-- R14: SBV changes only by DERIVE, which sets it, and by a reset event, which clears it. -/
def Obligations.OnlyDeriveSetsSbv : Prop :=
  (∀ (i : Instr) (s t : State), exec i s = .next t → i ≠ .derive → t.sbv = s.sbv) ∧
  (∀ (cw : CommandWord) (s t : State), presentWord cw s = .next t → decode cw ≠ .legal .derive →
    t.sbv = s.sbv) ∧
  (∀ s : State, s.fault = false → ∃ t : State, exec .derive s = .next t ∧ t.sbv = true) ∧
  (∀ s : State, (resetEvent s).sbv = false)
end

