-- ==== Sys2Proof/Laws/Memory.lean ====
section
/-!
SUPPORT. The laws of one array: reading back, leaving other entries alone, the canonical form kept by
every store, and equality of canonical arrays from equality of their reads.
-/

namespace Sys2Proof.Laws

open Sys2Proof.Machine

theorem read_nil (a : Nat) : Memory.read [] a = none := rfl

theorem read_cons (b : Nat) (w : Byte) (m : Memory) (a : Nat) :
    Memory.read ((b, w) :: m) a = if a = b then some w else Memory.read m a := rfl

/-- A store is read back. -/
@[simp] theorem read_write_same (m : Memory) (a : Nat) (v : Byte) :
    Memory.read (Memory.write m a v) a = some v := by
  induction m with
  | nil => simp [Memory.write, read_cons]
  | cons c m ih =>
    obtain ⟨b, w⟩ := c
    rw [Memory.write]
    split
    · simp [read_cons]
    · split <;> simp_all [read_cons]

/-- A store leaves every other index alone. -/
theorem read_write_other (m : Memory) {a c : Nat} (v : Byte) (h : c ≠ a) :
    Memory.read (Memory.write m a v) c = Memory.read m c := by
  induction m with
  | nil => simp [Memory.write, read_cons, h]
  | cons d m ih =>
    obtain ⟨b, w⟩ := d
    rw [Memory.write]
    split
    · simp [read_cons, h]
    · split
      · simp_all [read_cons]
      · simp [read_cons, ih]

/-- Every read after a store. -/
theorem read_write (m : Memory) (a c : Nat) (v : Byte) :
    Memory.read (Memory.write m a v) c = if c = a then some v else Memory.read m c := by
  split
  · simp_all
  · exact read_write_other m v ‹_›

theorem risingFrom_write {m : Memory} {lo a : Nat} {v : Byte} (hm : m.risingFrom lo = true)
    (hlo : lo ≤ a) (ha : a < 256) : (m.write a v).risingFrom lo = true := by
  induction m generalizing lo with
  | nil => simp [Memory.write, Memory.risingFrom, hlo, ha]
  | cons c m ih =>
    obtain ⟨b, w⟩ := c
    simp only [Memory.risingFrom, Bool.and_eq_true, decide_eq_true_eq] at hm
    obtain ⟨⟨hb, hb'⟩, hr⟩ := hm
    rw [Memory.write]
    split
    · simp only [Memory.risingFrom, Bool.and_eq_true, decide_eq_true_eq]
      exact ⟨⟨hlo, ha⟩, ⟨by omega, hb'⟩, hr⟩
    · split
      · subst a
        simp only [Memory.risingFrom, Bool.and_eq_true, decide_eq_true_eq]
        exact ⟨⟨hlo, ha⟩, hr⟩
      · simp only [Memory.risingFrom, Bool.and_eq_true, decide_eq_true_eq]
        exact ⟨⟨hb, hb'⟩, ih hr (by omega)⟩

/-- A store at an 8-bit index keeps the canonical form. -/
theorem wf_write {m : Memory} (hm : m.wf = true) (i v : Byte) : (m.write i.toNat v).wf = true :=
  risingFrom_write hm (Nat.zero_le _) i.isLt

@[simp] theorem wf_nil : Memory.wf [] = true := rfl

/-- The arrays are canonical at reset. -/
theorem reset_arrays_wf : State.reset.sbox.wf = true ∧ State.reset.isbox.wf = true := ⟨rfl, rfl⟩

theorem read_eq_none_of_rising {m : Memory} {lo a : Nat} (hm : m.risingFrom lo = true) (h : a < lo) :
    m.read a = none := by
  induction m generalizing lo with
  | nil => rfl
  | cons c m ih =>
    obtain ⟨b, w⟩ := c
    simp only [Memory.risingFrom, Bool.and_eq_true, decide_eq_true_eq] at hm
    rw [read_cons, if_neg (by omega), ih hm.2 (by omega)]

theorem rising_ext {m n : Memory} {lo : Nat} (hm : m.risingFrom lo = true) (hn : n.risingFrom lo = true)
    (h : ∀ a, m.read a = n.read a) : m = n := by
  induction m generalizing n lo with
  | nil =>
    cases n with
    | nil => rfl
    | cons d n =>
      obtain ⟨e, u⟩ := d
      simpa [read_nil, read_cons] using h e
  | cons c m ih =>
    obtain ⟨b, w⟩ := c
    cases n with
    | nil => simpa [read_nil, read_cons] using h b
    | cons d n =>
      obtain ⟨e, u⟩ := d
      simp only [Memory.risingFrom, Bool.and_eq_true, decide_eq_true_eq] at hm hn
      have hb := h b
      have he := h e
      rw [read_cons, if_pos rfl, read_cons] at hb
      rw [read_cons, read_cons, if_pos rfl] at he
      have hbe : b = e := by
        by_contra hne
        rw [if_neg hne] at hb
        rw [if_neg (Ne.symm hne)] at he
        rcases Nat.lt_or_gt_of_ne hne with hlt | hgt
        · rw [read_eq_none_of_rising hn.2 (by omega)] at hb
          cases hb
        · rw [read_eq_none_of_rising hm.2 (by omega)] at he
          cases he
      subst hbe
      simp only [if_true, Option.some.injEq] at hb
      subst hb
      congr 1
      refine ih hm.2 hn.2 fun a => ?_
      by_cases hab : a = b
      · subst hab
        rw [read_eq_none_of_rising hm.2 (by omega), read_eq_none_of_rising hn.2 (by omega)]
      · simpa [read_cons, hab] using h a

/-- Canonical arrays with equal reads are equal data. -/
theorem wf_ext {m n : Memory} (hm : m.wf = true) (hn : n.wf = true) (h : ∀ a, m.read a = n.read a) :
    m = n :=
  rising_ext hm hn h

/-- An entry after a store. -/
theorem entryOf_write (src : Source) (m : Memory) (i j v : Byte) :
    entryOf src (m.write i.toNat v) j = if j = i then v else entryOf src m j := by
  unfold entryOf
  rw [read_write]
  by_cases h : j = i
  · subst h
    simp
  · rw [if_neg (fun hn => h (BitVec.eq_of_toNat_eq hn)), if_neg h]

end Sys2Proof.Laws
end

