-- ==== Sys2Proof/Laws/PerInstr.lean ====
section
/-!
SUPPORT. Two families of statements about every command as syntax: it is well formed, and its word
matches its own row of the opcode map (R53).
-/

namespace Sys2Proof.Laws

theorem byte_fits (b : Byte) : Byte.fits b = true := by
  simpa [Byte.fits] using b.isLt

theorem mulVec_fits (m : MulVec) : m.fits = true := by
  simp [MulVec.fits, byte_fits]

/-- Every operand of the command fits its field (R52). -/
def WellFormed.Statement (i : Instr) : Prop := i.wf = true

theorem WellFormed.gfadd (a b : Byte) : WellFormed.Statement (.gfadd a b) := by
  simp [WellFormed.Statement, Instr.wf, byte_fits]

theorem WellFormed.gfmul (a b : Byte) : WellFormed.Statement (.gfmul a b) := by
  simp [WellFormed.Statement, Instr.wf, byte_fits]

theorem WellFormed.derive : WellFormed.Statement .derive := rfl

theorem WellFormed.gentbl (src : Source) (m : MulVec) : WellFormed.Statement (.gentbl src m) := by
  simp [WellFormed.Statement, Instr.wf, mulVec_fits]

theorem WellFormed.rdsbox (src : Source) (idx : Byte) : WellFormed.Statement (.rdsbox src idx) := by
  simp [WellFormed.Statement, Instr.wf, byte_fits]

theorem WellFormed.tword (x : Byte) (m : MulVec) : WellFormed.Statement (.tword x m) := by
  simp [WellFormed.Statement, Instr.wf, byte_fits, mulVec_fits]

/-- The command's word agrees with its row under the row's mask (R53). -/
def EncodedRow.Statement (i : Instr) : Prop := i.row.selects (encode i) = true

theorem EncodedRow.gfadd (a b : Byte) : EncodedRow.Statement (.gfadd a b) := by
  simp only [EncodedRow.Statement, OpcodeRow.selects, Instr.row, rowGfadd, encode, beq_iff_eq]
  refine BitVec.eq_of_getLsbD_eq fun k hk => ?_
  simp only [BitVec.getLsbD_and, BitVec.getLsbD_append]
  interval_cases k <;> simp

theorem EncodedRow.gfmul (a b : Byte) : EncodedRow.Statement (.gfmul a b) := by
  simp only [EncodedRow.Statement, OpcodeRow.selects, Instr.row, rowGfmul, encode, beq_iff_eq]
  refine BitVec.eq_of_getLsbD_eq fun k hk => ?_
  simp only [BitVec.getLsbD_and, BitVec.getLsbD_append]
  interval_cases k <;> simp

theorem EncodedRow.derive : EncodedRow.Statement .derive := rfl

theorem EncodedRow.gentbl (src : Source) (m : MulVec) : EncodedRow.Statement (.gentbl src m) := by
  cases src
  all_goals
    simp only [EncodedRow.Statement, OpcodeRow.selects, Instr.row, rowGentbl, encode, beq_iff_eq]
    refine BitVec.eq_of_getLsbD_eq fun k hk => ?_
    simp only [BitVec.getLsbD_and, BitVec.getLsbD_append, Source.bit, MulVec.bits]
    interval_cases k <;> simp

theorem EncodedRow.rdsbox (src : Source) (idx : Byte) : EncodedRow.Statement (.rdsbox src idx) := by
  cases src
  all_goals
    simp only [EncodedRow.Statement, OpcodeRow.selects, Instr.row, rowRdsbox, encode, beq_iff_eq]
    refine BitVec.eq_of_getLsbD_eq fun k hk => ?_
    simp only [BitVec.getLsbD_and, BitVec.getLsbD_append, Source.bit]
    interval_cases k <;> simp

theorem EncodedRow.tword (x : Byte) (m : MulVec) : EncodedRow.Statement (.tword x m) := by
  simp only [EncodedRow.Statement, OpcodeRow.selects, Instr.row, rowTword, encode, beq_iff_eq]
  refine BitVec.eq_of_getLsbD_eq fun k hk => ?_
  simp only [BitVec.getLsbD_and, BitVec.getLsbD_append, MulVec.bits]
  interval_cases k <;> simp

end Sys2Proof.Laws
end

