-- ==== Sys2Proof/Laws/State.lean ====
section
/-!
SUPPORT. What each update of the state does to each field of it: one lemma per field per update, all
true by unfolding, so that no later proof unfolds a record update.
-/

namespace Sys2Proof.Laws

open Sys2Proof.Machine

variable (s : State)

@[simp] theorem writeSbox_sbox (i v : Byte) : (writeSbox i v s).sbox = Memory.write s.sbox i.toNat v := rfl
@[simp] theorem writeSbox_isbox (i v : Byte) : (writeSbox i v s).isbox = s.isbox := rfl
@[simp] theorem writeSbox_sbv (i v : Byte) : (writeSbox i v s).sbv = s.sbv := rfl
@[simp] theorem writeSbox_p (i v : Byte) : (writeSbox i v s).p = s.p := rfl
@[simp] theorem writeSbox_q (i v : Byte) : (writeSbox i v s).q = s.q := rfl
@[simp] theorem writeSbox_res (i v : Byte) : (writeSbox i v s).res = s.res := rfl
@[simp] theorem writeSbox_fault (i v : Byte) : (writeSbox i v s).fault = s.fault := rfl
@[simp] theorem writeSbox_fcause (i v : Byte) : (writeSbox i v s).fcause = s.fcause := rfl
@[simp] theorem writeSbox_out (i v : Byte) : (writeSbox i v s).out = s.out := rfl
@[simp] theorem writeSbox_host (i v : Byte) : (writeSbox i v s).host = s.host := rfl

@[simp] theorem setIsbox_sbox (m : Memory) : (setIsbox m s).sbox = s.sbox := rfl
@[simp] theorem setIsbox_isbox (m : Memory) : (setIsbox m s).isbox = m := rfl
@[simp] theorem setIsbox_sbv (m : Memory) : (setIsbox m s).sbv = s.sbv := rfl
@[simp] theorem setIsbox_p (m : Memory) : (setIsbox m s).p = s.p := rfl
@[simp] theorem setIsbox_q (m : Memory) : (setIsbox m s).q = s.q := rfl
@[simp] theorem setIsbox_res (m : Memory) : (setIsbox m s).res = s.res := rfl
@[simp] theorem setIsbox_fault (m : Memory) : (setIsbox m s).fault = s.fault := rfl
@[simp] theorem setIsbox_fcause (m : Memory) : (setIsbox m s).fcause = s.fcause := rfl
@[simp] theorem setIsbox_out (m : Memory) : (setIsbox m s).out = s.out := rfl
@[simp] theorem setIsbox_host (m : Memory) : (setIsbox m s).host = s.host := rfl

@[simp] theorem setRes_sbox (v : Byte) : (setRes v s).sbox = s.sbox := rfl
@[simp] theorem setRes_isbox (v : Byte) : (setRes v s).isbox = s.isbox := rfl
@[simp] theorem setRes_sbv (v : Byte) : (setRes v s).sbv = s.sbv := rfl
@[simp] theorem setRes_p (v : Byte) : (setRes v s).p = s.p := rfl
@[simp] theorem setRes_q (v : Byte) : (setRes v s).q = s.q := rfl
@[simp] theorem setRes_res (v : Byte) : (setRes v s).res = v := rfl
@[simp] theorem setRes_fault (v : Byte) : (setRes v s).fault = s.fault := rfl
@[simp] theorem setRes_fcause (v : Byte) : (setRes v s).fcause = s.fcause := rfl
@[simp] theorem setRes_out (v : Byte) : (setRes v s).out = s.out := rfl
@[simp] theorem setRes_host (v : Byte) : (setRes v s).host = s.host := rfl

@[simp] theorem setSbv_sbox (v : Bool) : (setSbv v s).sbox = s.sbox := rfl
@[simp] theorem setSbv_isbox (v : Bool) : (setSbv v s).isbox = s.isbox := rfl
@[simp] theorem setSbv_sbv (v : Bool) : (setSbv v s).sbv = v := rfl
@[simp] theorem setSbv_p (v : Bool) : (setSbv v s).p = s.p := rfl
@[simp] theorem setSbv_q (v : Bool) : (setSbv v s).q = s.q := rfl
@[simp] theorem setSbv_res (v : Bool) : (setSbv v s).res = s.res := rfl
@[simp] theorem setSbv_fault (v : Bool) : (setSbv v s).fault = s.fault := rfl
@[simp] theorem setSbv_fcause (v : Bool) : (setSbv v s).fcause = s.fcause := rfl
@[simp] theorem setSbv_out (v : Bool) : (setSbv v s).out = s.out := rfl
@[simp] theorem setSbv_host (v : Bool) : (setSbv v s).host = s.host := rfl

@[simp] theorem setWalk_sbox (p q : Byte) (m : Memory) : (setWalk p q m s).sbox = m := rfl
@[simp] theorem setWalk_isbox (p q : Byte) (m : Memory) : (setWalk p q m s).isbox = s.isbox := rfl
@[simp] theorem setWalk_sbv (p q : Byte) (m : Memory) : (setWalk p q m s).sbv = s.sbv := rfl
@[simp] theorem setWalk_p (p q : Byte) (m : Memory) : (setWalk p q m s).p = p := rfl
@[simp] theorem setWalk_q (p q : Byte) (m : Memory) : (setWalk p q m s).q = q := rfl
@[simp] theorem setWalk_res (p q : Byte) (m : Memory) : (setWalk p q m s).res = s.res := rfl
@[simp] theorem setWalk_fault (p q : Byte) (m : Memory) : (setWalk p q m s).fault = s.fault := rfl
@[simp] theorem setWalk_fcause (p q : Byte) (m : Memory) : (setWalk p q m s).fcause = s.fcause := rfl
@[simp] theorem setWalk_out (p q : Byte) (m : Memory) : (setWalk p q m s).out = s.out := rfl
@[simp] theorem setWalk_host (p q : Byte) (m : Memory) : (setWalk p q m s).host = s.host := rfl

@[simp] theorem emitAll_sbox (ws : List TableWord) : (emitAll ws s).sbox = s.sbox := rfl
@[simp] theorem emitAll_isbox (ws : List TableWord) : (emitAll ws s).isbox = s.isbox := rfl
@[simp] theorem emitAll_sbv (ws : List TableWord) : (emitAll ws s).sbv = s.sbv := rfl
@[simp] theorem emitAll_p (ws : List TableWord) : (emitAll ws s).p = s.p := rfl
@[simp] theorem emitAll_q (ws : List TableWord) : (emitAll ws s).q = s.q := rfl
@[simp] theorem emitAll_res (ws : List TableWord) : (emitAll ws s).res = s.res := rfl
@[simp] theorem emitAll_fault (ws : List TableWord) : (emitAll ws s).fault = s.fault := rfl
@[simp] theorem emitAll_fcause (ws : List TableWord) : (emitAll ws s).fcause = s.fcause := rfl
@[simp] theorem emitAll_out (ws : List TableWord) : (emitAll ws s).out = s.out ++ ws := rfl
@[simp] theorem emitAll_host (ws : List TableWord) : (emitAll ws s).host = s.host := rfl

@[simp] theorem emit_sbox (w : TableWord) : (emit w s).sbox = s.sbox := rfl
@[simp] theorem emit_isbox (w : TableWord) : (emit w s).isbox = s.isbox := rfl
@[simp] theorem emit_sbv (w : TableWord) : (emit w s).sbv = s.sbv := rfl
@[simp] theorem emit_p (w : TableWord) : (emit w s).p = s.p := rfl
@[simp] theorem emit_q (w : TableWord) : (emit w s).q = s.q := rfl
@[simp] theorem emit_res (w : TableWord) : (emit w s).res = s.res := rfl
@[simp] theorem emit_fault (w : TableWord) : (emit w s).fault = s.fault := rfl
@[simp] theorem emit_fcause (w : TableWord) : (emit w s).fcause = s.fcause := rfl
@[simp] theorem emit_out (w : TableWord) : (emit w s).out = s.out ++ [w] := rfl
@[simp] theorem emit_host (w : TableWord) : (emit w s).host = s.host := rfl

@[simp] theorem takeInput_sbox (rest : List HostEvent) : (takeInput rest s).sbox = s.sbox := rfl
@[simp] theorem takeInput_isbox (rest : List HostEvent) : (takeInput rest s).isbox = s.isbox := rfl
@[simp] theorem takeInput_sbv (rest : List HostEvent) : (takeInput rest s).sbv = s.sbv := rfl
@[simp] theorem takeInput_p (rest : List HostEvent) : (takeInput rest s).p = s.p := rfl
@[simp] theorem takeInput_q (rest : List HostEvent) : (takeInput rest s).q = s.q := rfl
@[simp] theorem takeInput_res (rest : List HostEvent) : (takeInput rest s).res = s.res := rfl
@[simp] theorem takeInput_fault (rest : List HostEvent) : (takeInput rest s).fault = s.fault := rfl
@[simp] theorem takeInput_fcause (rest : List HostEvent) : (takeInput rest s).fcause = s.fcause := rfl
@[simp] theorem takeInput_out (rest : List HostEvent) : (takeInput rest s).out = s.out := rfl
@[simp] theorem takeInput_host (rest : List HostEvent) : (takeInput rest s).host = rest := rfl

@[simp] theorem raiseFault_sbox (c : Cause) : (raiseFault c s).sbox = s.sbox := rfl
@[simp] theorem raiseFault_isbox (c : Cause) : (raiseFault c s).isbox = s.isbox := rfl
@[simp] theorem raiseFault_sbv (c : Cause) : (raiseFault c s).sbv = s.sbv := rfl
@[simp] theorem raiseFault_p (c : Cause) : (raiseFault c s).p = s.p := rfl
@[simp] theorem raiseFault_q (c : Cause) : (raiseFault c s).q = s.q := rfl
@[simp] theorem raiseFault_res (c : Cause) : (raiseFault c s).res = s.res := rfl
@[simp] theorem raiseFault_fault (c : Cause) : (raiseFault c s).fault = true := rfl
@[simp] theorem raiseFault_fcause (c : Cause) : (raiseFault c s).fcause = c := rfl
@[simp] theorem raiseFault_out (c : Cause) : (raiseFault c s).out = s.out := rfl
@[simp] theorem raiseFault_host (c : Cause) : (raiseFault c s).host = s.host := rfl

@[simp] theorem resetEvent_sbox : (resetEvent s).sbox = s.sbox := rfl
@[simp] theorem resetEvent_isbox : (resetEvent s).isbox = s.isbox := rfl
@[simp] theorem resetEvent_sbv : (resetEvent s).sbv = false := rfl
@[simp] theorem resetEvent_p : (resetEvent s).p = 0x00#8 := rfl
@[simp] theorem resetEvent_q : (resetEvent s).q = 0x00#8 := rfl
@[simp] theorem resetEvent_res : (resetEvent s).res = 0x00#8 := rfl
@[simp] theorem resetEvent_fault : (resetEvent s).fault = false := rfl
@[simp] theorem resetEvent_fcause : (resetEvent s).fcause = .none := rfl
@[simp] theorem resetEvent_out : (resetEvent s).out = s.out := rfl
@[simp] theorem resetEvent_host : (resetEvent s).host = s.host := rfl

@[simp] theorem abandonCommand_sbox (ws : List TableWord) : (abandonCommand ws s).sbox = [] := rfl
@[simp] theorem abandonCommand_isbox (ws : List TableWord) : (abandonCommand ws s).isbox = [] := rfl
@[simp] theorem abandonCommand_sbv (ws : List TableWord) : (abandonCommand ws s).sbv = false := rfl
@[simp] theorem abandonCommand_p (ws : List TableWord) : (abandonCommand ws s).p = 0x00#8 := rfl
@[simp] theorem abandonCommand_q (ws : List TableWord) : (abandonCommand ws s).q = 0x00#8 := rfl
@[simp] theorem abandonCommand_res (ws : List TableWord) : (abandonCommand ws s).res = 0x00#8 := rfl
@[simp] theorem abandonCommand_fault (ws : List TableWord) : (abandonCommand ws s).fault = false := rfl
@[simp] theorem abandonCommand_fcause (ws : List TableWord) : (abandonCommand ws s).fcause = .none := rfl
@[simp] theorem abandonCommand_out (ws : List TableWord) : (abandonCommand ws s).out = s.out ++ ws := rfl
@[simp] theorem abandonCommand_host (ws : List TableWord) : (abandonCommand ws s).host = s.host := rfl

@[simp] theorem powerOnReset_sbox : (powerOnReset s).sbox = [] := rfl
@[simp] theorem powerOnReset_isbox : (powerOnReset s).isbox = [] := rfl
@[simp] theorem powerOnReset_sbv : (powerOnReset s).sbv = false := rfl
@[simp] theorem powerOnReset_p : (powerOnReset s).p = 0x00#8 := rfl
@[simp] theorem powerOnReset_q : (powerOnReset s).q = 0x00#8 := rfl
@[simp] theorem powerOnReset_res : (powerOnReset s).res = 0x00#8 := rfl
@[simp] theorem powerOnReset_fault : (powerOnReset s).fault = false := rfl
@[simp] theorem powerOnReset_fcause : (powerOnReset s).fcause = .none := rfl
@[simp] theorem powerOnReset_out : (powerOnReset s).out = [] := rfl
@[simp] theorem powerOnReset_host : (powerOnReset s).host = s.host := rfl

end Sys2Proof.Laws
end

