-- ==== Sys2Proof/Laws/Step.lean ====
section
/-!
SUPPORT. What each shared operation of a step can do, said once: the two checks, a presented word, and
the inversion of a whole step. Proofs about steps cite these instead of unfolding.
-/

namespace Sys2Proof.Laws

open Sys2Proof.Machine

/-! ## The two checks -/

theorem whenReady_ready {s : State} (h : s.fault = false) (k : Result) : whenReady s k = k := by
  simp [whenReady, h]

theorem whenReady_halted {s : State} (h : s.fault = true) (k : Result) : whenReady s k = .next s := by
  simp [whenReady, h]

/-- The first check answers the state unchanged, or lets the command run in a state without fault. -/
theorem whenReady_cases (s : State) (k : Result) :
    (s.fault = true ∧ whenReady s k = .next s) ∨ (s.fault = false ∧ whenReady s k = k) := by
  cases h : s.fault
  · exact .inr ⟨rfl, whenReady_ready h k⟩
  · exact .inl ⟨rfl, whenReady_halted h k⟩

theorem whenSboxValid_valid {s : State} (h : s.sbv = true) (k : Result) : whenSboxValid s k = k := by
  simp [whenSboxValid, h]

theorem whenSboxValid_invalid {s : State} (h : s.sbv = false) (k : Result) :
    whenSboxValid s k = .next (raiseFault .sboxNotReady s) := by
  simp [whenSboxValid, h]

theorem whenSboxValid_cases (s : State) (k : Result) :
    (s.sbv = false ∧ whenSboxValid s k = .next (raiseFault .sboxNotReady s)) ∨
    (s.sbv = true ∧ whenSboxValid s k = k) := by
  cases h : s.sbv
  · exact .inl ⟨rfl, whenSboxValid_invalid h k⟩
  · exact .inr ⟨rfl, whenSboxValid_valid h k⟩

/-! ## A presented word and a step -/

/-- A word presented while FAULT = 0 runs its command, or raises IllegalCommand. -/
theorem presentWord_ready {s : State} (h : s.fault = false) (cw : CommandWord) :
    (∃ i, decode cw = .legal i ∧ presentWord cw s = exec i s) ∨
    (∃ why, decode cw = .illegal why ∧
      presentWord cw s = .next (raiseFault .illegalCommand s)) := by
  rw [presentWord, whenReady_ready h]
  cases decode cw with
  | legal i => exact .inl ⟨i, rfl, rfl⟩
  | illegal why => exact .inr ⟨why, rfl, rfl⟩

/-- Everything a step can do, by what the host presents. -/
theorem step_cases (s : State) :
    (s.host = [] ∧ step s = .next s) ∨
    (∃ cw rest, s.host = .command cw :: rest ∧ step s = presentWord cw (takeInput rest s)) ∨
    (∃ rest, s.host = .reset :: rest ∧ step s = .next (resetEvent (takeInput rest s))) ∨
    (∃ cw n rest, s.host = .resetDuring cw n :: rest ∧
      step s = interruptWord cw n (takeInput rest s)) ∨
    (∃ rest, s.host = .powerCycle :: rest ∧ step s = .next (powerOnReset (takeInput rest s))) := by
  unfold step takeStep
  cases h : s.host with
  | nil => exact .inl ⟨rfl, rfl⟩
  | cons e rest =>
    cases e with
    | command cw => exact .inr (.inl ⟨cw, rest, rfl, rfl⟩)
    | reset => exact .inr (.inr (.inl ⟨rest, rfl, rfl⟩))
    | resetDuring cw n => exact .inr (.inr (.inr (.inl ⟨cw, n, rest, rfl, rfl⟩)))
    | powerCycle => exact .inr (.inr (.inr (.inr ⟨rest, rfl, rfl⟩)))

/-- What placing a word does: the host presents it next, and nothing else changes. -/
@[simp] theorem withFetchWord_host (s : State) (nbits w : Nat) :
    (s.withFetchWord nbits w).host = .command (tableWord nbits w) :: s.host := rfl

theorem takeInput_withFetchWord (s : State) (nbits w : Nat) :
    takeInput s.host (s.withFetchWord nbits w) = s := rfl

end Sys2Proof.Laws
end

