-- ==== Sys2Proof/Laws/Units.lean ====
section
/-!
SUPPORT. What the shared operations of the three units do, said once: the 256 indexes, array reads after
stores, a walk step, the ends of a derivation, and the words a step adds to OUT.
-/

namespace Sys2Proof.Laws

open Sys2Proof.Machine

/-! ## Indexes and tables -/

@[simp] theorem indexes_length : indexes.length = 256 := by simp [indexes]

/-- Index i stands at place i. -/
theorem indexes_getElem? (i : Byte) : indexes[i.toNat]? = some i := by
  have h : i.toNat < 256 := i.isLt
  simp [indexes, h]

/-- Every byte is one of the indexes. -/
theorem mem_indexes (i : Byte) : i ∈ indexes := List.mem_of_getElem? (indexes_getElem? i)

@[simp] theorem generateTable_length (src : Source) (m : MulVec) (s : State) :
    (generateTable src m s).length = 256 := by simp [generateTable]

/-- Word i of a table is the table word of entry i. -/
theorem generateTable_getElem? (src : Source) (m : MulVec) (s : State) (i : Byte) :
    (generateTable src m s)[i.toNat]? = some (tword (memRead src i s) m) := by
  simp [generateTable, indexes_getElem?]

/-! ## Arrays in the state -/

theorem memRead_s (i : Byte) (s : State) : memRead .s i s = entryOf .s s.sbox i := rfl
theorem memRead_si (i : Byte) (s : State) : memRead .si i s = entryOf .si s.isbox i := rfl

/-- Reading SBOX after a store into it. -/
theorem memRead_writeSbox (i j v : Byte) (s : State) :
    memRead .s j (writeSbox i v s) = if j = i then v else memRead .s j s :=
  entryOf_write .s s.sbox i j v

/-- A run of stores at 8-bit indexes keeps the canonical form. -/
theorem wf_foldl_write (l : List Byte) (key val : Byte → Byte) {m : Memory} (hm : m.wf = true) :
    (l.foldl (fun m i => Memory.write m (key i).toNat (val i)) m).wf = true := by
  induction l generalizing m with
  | nil => exact hm
  | cons i l ih => exact ih (wf_write hm (key i) (val i))

/-- The inverse pass keeps the canonical form. -/
theorem wf_invertArray (sbox : Memory) {isbox : Memory} (h : isbox.wf = true) :
    (invertArray sbox isbox).wf = true :=
  wf_foldl_write indexes (entryOf .s sbox) (fun i => i) h

/-! ## The walk -/

@[simp] theorem walkStep_p (w : Walk) : (walkStep w).p = multiply w.p 0x03#8 := rfl
@[simp] theorem walkStep_q (w : Walk) : (walkStep w).q = multiply w.q 0xF6#8 := rfl
@[simp] theorem walkStep_sbox (w : Walk) :
    (walkStep w).sbox =
      Memory.write w.sbox (multiply w.p 0x03#8).toNat (affine (multiply w.q 0xF6#8)) := rfl

/-- One turn of the loop. -/
theorem walk_succ (n : Nat) (w : Walk) :
    walk (n + 1) w =
      if walkChecks (walkStep w) then
        if (walkStep w).p = 0x01#8 then .returned (walkStep w) else walk n (walkStep w)
      else .inconsistent (walkStep w) := rfl

/-- A walk keeps the canonical form of SBOX, however it ends. -/
theorem wf_walk (n : Nat) {w : Walk} (hw : w.sbox.wf = true) :
    (∀ v, walk n w = .returned v → v.sbox.wf = true) ∧
    (∀ v, walk n w = .inconsistent v → v.sbox.wf = true) := by
  induction n generalizing w with
  | zero => exact ⟨fun v h => (by cases h), fun v h => (by cases h)⟩
  | succ n ih =>
    have hs : (walkStep w).sbox.wf = true := wf_write hw _ _
    rw [walk_succ]
    split
    · split
      · exact ⟨fun v h => (by cases h; exact hs), fun v h => (by cases h)⟩
      · exact ih hs
    · exact ⟨fun v h => (by cases h), fun v h => (by cases h; exact hs)⟩

/-! ## Emissions -/

@[simp] theorem wordsOf_emitAll (ws : List TableWord) (s : State) : wordsOf s (emitAll ws s) = ws := by
  simp [wordsOf]

@[simp] theorem wordsOf_self (s : State) : wordsOf s s = [] := by simp [wordsOf]

end Sys2Proof.Laws
end

