-- ==== Sys2Proof/Tests/Slice0.lean ====
section
/-!
SUPPORT. The model's own tests, expected results from 95_test_vectors.md, 96_test_vectors_tables.md and
the examples of the rules; and for every statement with hypotheses a witness that they can hold.
-/

namespace Sys2Proof.Tests

open Sys2Proof Sys2Proof.Machine

/-! ## Helpers -/

/-- A state whose arrays hold the printed S-boxes, as after DERIVE. -/
def derivedState : State :=
  { State.reset with
    sbox := indexes.map fun i => (i.toNat, printedBox .s i)
    isbox := indexes.map fun i => (i.toNat, printedBox .si i)
    sbv := true, p := 0x01#8, q := 0x01#8 }

/-- A small state with SBV = 1: one entry of each array is stated. -/
def smallState : State := { State.reset with sbox := [(0, 0x63#8)], isbox := [(255, 0x7D#8)], sbv := true }

/-- A state in the fault state. -/
def haltedState : State := { State.reset with fault := true, fcause := .illegalCommand, res := 0xC1#8 }

/-- The host presents one event to a state. -/
def given (e : HostEvent) (s : State) : State := { s with host := [e] }

/-- Did it end in a next state? -/
def isNext : Result → Bool
  | .next _ => true
  | .fault _ => false
  | .refused _ => false

/-- A view of the next state, if there is one. -/
def onNext {α : Type} (f : State → α) : Result → Option α
  | .next t => some (f t)
  | .fault _ => none
  | .refused _ => none

theorem exists_of_isNext {r : Result} (h : isNext r = true) : ∃ t, r = .next t := by
  cases r with
  | next t => exact ⟨t, rfl⟩
  | fault _ => cases h
  | refused _ => cases h

/-! ## Well-formedness (R53, R54; 95_test_vectors.md section 7) -/

theorem test_wf_legal_words :
    CommandWord.wf 0x01000000FFFF#48 = true ∧ CommandWord.wf 0x020000005783#48 = true ∧
    CommandWord.wf 0x030000000000#48 = true ∧ CommandWord.wf 0x0401FFFFFFFF#48 = true ∧
    CommandWord.wf 0x0501000000ED#48 = true ∧ CommandWord.wf 0x06FFFFFFFFFF#48 = true := by decide

theorem test_wf_refuses_reserved_opcodes :
    CommandWord.wf 0x000000000000#48 = false ∧ CommandWord.wf 0x070000000000#48 = false ∧
    CommandWord.wf 0x800000000000#48 = false ∧ CommandWord.wf 0xFFFFFFFFFFFF#48 = false := by decide

theorem test_wf_refuses_reserved_bits :
    CommandWord.wf 0x010000010000#48 = false ∧ CommandWord.wf 0x020100005783#48 = false ∧
    CommandWord.wf 0x030000000001#48 = false ∧ CommandWord.wf 0x038000000000#48 = false ∧
    CommandWord.wf 0x040202010103#48 = false ∧ CommandWord.wf 0x050200000053#48 = false ∧
    CommandWord.wf 0x050000000153#48 = false ∧ CommandWord.wf 0x0500800000FF#48 = false := by decide

/-- Every operand of every command fits its field; no command is ill formed (R52, U1). -/
theorem test_wf_commands :
    Instr.wf (.gfadd 0xFF#8 0x00#8) = true ∧ Instr.wf (.tword 0xFF#8 ⟨0xFF, 0, 1, 2⟩) = true := by decide

/-! ## Decoding: words written out from the formats R47 to R51 -/

theorem test_decode_gfadd : decode 0x010000005783#48 = .legal (.gfadd 0x57#8 0x83#8) := by decide
theorem test_decode_gfmul : decode 0x020000000280#48 = .legal (.gfmul 0x02#8 0x80#8) := by decide
theorem test_decode_derive : decode 0x030000000000#48 = .legal .derive := by decide
theorem test_decode_gentbl :
    decode 0x04010E090D0B#48 = .legal (.gentbl .si ⟨0x0E, 0x09, 0x0D, 0x0B⟩) := by decide
theorem test_decode_rdsbox : decode 0x050000000053#48 = .legal (.rdsbox .s 0x53#8) := by decide
theorem test_decode_rdsbox_si : decode 0x0501000000ED#48 = .legal (.rdsbox .si 0xED#8) := by decide
theorem test_decode_tword :
    decode 0x0601DEADBEEF#48 = .legal (.tword 0x01#8 ⟨0xDE, 0xAD, 0xBE, 0xEF⟩) := by decide
theorem test_decode_illegal :
    decode 0x000000000000#48 = .illegal .reservedOpcode ∧ decode 0xFF0000000000#48 = .illegal .reservedOpcode ∧
    decode 0x02FFFFFF5783#48 = .illegal .reservedBit ∧ decode 0x04FF00000000#48 = .illegal .reservedBit := by
  decide

/-- A GFADD word built bit by bit from R48: OP 00000001, twenty-four zeros, A 01010111, B 10000011. -/
theorem test_decode_gfadd_bits :
    decode (0b00000001#8 ++ 0b000000000000000000000000#24 ++ 0b01010111#8 ++ 0b10000011#8) =
      .legal (.gfadd 0x57#8 0x83#8) := by decide

theorem test_encode_formats :
    encode (.gfadd 0x57#8 0x83#8) = 0x010000005783#48 ∧ encode .derive = 0x030000000000#48 ∧
    encode (.gentbl .si ⟨14, 9, 13, 11⟩) = 0x04010E090D0B#48 ∧
    encode (.rdsbox .si 0xED#8) = 0x0501000000ED#48 ∧
    encode (.tword 0x63#8 ⟨2, 1, 1, 3⟩) = 0x066302010103#48 := by decide

theorem test_decodeTableWord :
    decodeTableWord 48 0x020000005783 = some (.gfmul 0x57#8 0x83#8) ∧
    decodeTableWord 48 0x020100005783 = none := by decide

/-! ## GFADD and GFMUL (95_test_vectors.md sections 2 and 3) -/

theorem test_gfadd_no_carry :
    onNext (fun t => t.res) (exec (.gfadd 0xFF#8 0x01#8) State.reset) = some 0xFE#8 := by decide
theorem test_gfadd_ignored_when_halted : exec (.gfadd 0xFF#8 0x01#8) haltedState = .next haltedState := rfl
theorem test_gfmul_general :
    onNext (fun t => t.res) (exec (.gfmul 0x57#8 0x83#8) State.reset) = some 0xC1#8 := by decide
theorem test_gfmul_largest :
    onNext (fun t => t.res) (exec (.gfmul 0xFF#8 0xFF#8) State.reset) = some 0x13#8 := by decide
theorem test_xtime_reduces : xtime 0x80#8 = 0x1B#8 ∧ xtime 0x8D#8 = 0x01#8 ∧ xtime 0x7F#8 = 0xFE#8 := by decide
theorem test_multiply_traces :
    multiply 0x57#8 0x13#8 = 0xFE#8 ∧ multiply 0x80#8 0x02#8 = 0x1B#8 ∧ multiply 0x0F#8 0xF0#8 = 0x27#8 ∧
    multiply 0x53#8 0xCA#8 = 0x01#8 := by decide
theorem test_multiply_iterations :
    multiplyIterations 8 0x57#8 0x83#8 = 8 ∧ multiplyIterations 8 0x83#8 0x57#8 = 7 ∧
    multiplyIterations 8 0x00#8 0xFF#8 = 0 := by decide

/-! ## DERIVE and RDSBOX (95_test_vectors.md sections 4, 5 and 8) -/

theorem test_rotl8_wraps : rotl8 0x80#8 1 = 0x01#8 ∧ rotl8 0xA5#8 4 = 0x5A#8 ∧ rotl8 0xF6#8 1 = 0xED#8 := by decide
theorem test_affine : affine 0xCA#8 = 0xED#8 ∧ affine 0x05#8 = 0x00#8 ∧ affine 0x80#8 = 0xEC#8 := by decide
theorem test_walk_second_step :
    (walkAfter 2 []).p = 0x05#8 ∧ (walkAfter 2 []).q = 0x52#8 ∧
    Memory.read (walkAfter 2 []).sbox 3 = some 0x7B#8 ∧
    Memory.read (walkAfter 2 []).sbox 5 = some 0x6B#8 := by decide

/-- P2: from reset, STATUS = 02, P = Q = 01, S[53] = ED and SI[ED] = 53. -/
theorem test_derive_from_reset :
    onNext (fun t => (status t, t.p, t.q, memRead .s 0x53#8 t, memRead .si 0xED#8 t))
      (exec .derive State.reset) = some (0x02#8, 0x01#8, 0x01#8, 0xED#8, 0x53#8) := by decide +kernel

/-- 95_test_vectors.md section 8: a step whose check fails leaves STATUS = 05 and the failing pair. The
pair here comes from a walk started at P = 02. -/
theorem test_derive_failed_check :
    onNext (fun t => (status t, t.p, t.q, t.res))
      (finishDerive (setSbv false smallState) (walk 255 ⟨0x02#8, 0x01#8, []⟩)) =
        some (0x05#8, 0x06#8, 0xF6#8, 0x00#8) := by decide

theorem test_rdsbox_reads :
    onNext (fun t => t.res) (exec (.rdsbox .s 0x00#8) smallState) = some 0x63#8 ∧
    onNext (fun t => t.res) (exec (.rdsbox .si 0xFF#8) smallState) = some 0x7D#8 := by decide
theorem test_rdsbox_before_derive :
    onNext (fun t => (status t, t.res)) (exec (.rdsbox .s 0x00#8) State.reset) = some (0x0D#8, 0x00#8) := by
  decide

/-! ## TWORD and GENTBL (95_test_vectors.md section 6) -/

theorem test_tword_lanes :
    onNext (fun t => t.out) (exec (.tword 0xFF#8 ⟨0xFF, 0, 1, 2⟩) State.reset) = some [0x1300FFE5#32] := by
  decide
theorem test_tword_appends :
    onNext (fun t => t.out)
      (exec (.tword 0x63#8 ⟨2, 1, 1, 3⟩) { State.reset with out := [0x63636363#32] }) =
        some [0x63636363#32, 0xC66363A5#32] := by decide
theorem test_gentbl_td0 :
    onNext (fun t => (t.out.take 2, t.out.drop 254))
      (exec (.gentbl .si ⟨14, 9, 13, 11⟩) derivedState) =
        some ([0x51F4A750#32, 0x7E416553#32], [0x486C5C74#32, 0xD0B85742#32]) := by decide +kernel
theorem test_gentbl_before_derive :
    onNext (fun t => (status t, t.out)) (exec (.gentbl .s ⟨2, 1, 1, 3⟩) State.reset) = some (0x0D#8, []) := by
  decide

/-! ## Faults, reset and steps (95_test_vectors.md sections 8 and 9) -/

/-- P7: an illegal word with SBV = 1 shows STATUS = 0B and keeps P and Q. -/
theorem test_illegal_keeps_sbv :
    onNext (fun t => (status t, t.p, t.q))
      (step (given (.command 0x030000000001#48) { smallState with p := 0x01#8, q := 0x01#8 })) =
        some (0x0B#8, 0x01#8, 0x01#8) := by decide

/-- Decoding comes before the SBV check: 0x050200000053 with SBV = 0 is IllegalCommand, STATUS = 09. -/
theorem test_illegal_before_not_ready :
    onNext status (step (given (.command 0x050200000053#48) State.reset)) = some 0x09#8 := by decide

/-- P4: while FAULT = 1 a DERIVE is ignored. -/
theorem test_halted_ignores_derive :
    step (given (.command 0x030000000000#48) haltedState) = .next haltedState := rfl

/-- Reset clears RES and the flags and keeps OUT. -/
theorem test_reset_event :
    onNext (fun t => (status t, t.res, t.out))
      (step (given .reset { haltedState with sbv := true, out := [1#32, 2#32] })) =
        some (0x00#8, 0x00#8, [1#32, 2#32]) := by decide

/-- RST during a TWORD (R130): the word had left, or it had not. -/
theorem test_reset_during :
    onNext (fun t => (status t, t.out)) (step (given (.resetDuring 0x066302010103#48 1) State.reset)) =
      some (0x00#8, [0xC66363A5#32]) ∧
    onNext (fun t => (status t, t.out)) (step (given (.resetDuring 0x066302010103#48 0) State.reset)) =
      some (0x00#8, []) := by decide

theorem test_step_runs_placed_word :
    onNext (fun t => t.res) (step (State.reset.withFetchWord 48 0x020000005713)) = some 0xFE#8 := by decide

theorem test_pins : pins haltedState = ⟨false, 0xC1#8, 0x09#8, 0x00#8, 0x00#8⟩ := by decide

theorem test_run_end : endsNormally State.reset = true ∧ endsNormally haltedState = false := by decide

/-! ## The assembler (R58, R59) -/

theorem test_assemble_rdsbox :
    assembleLine "RDSBOX SI, 0xED ; one entry" = .presents (.command 0x0501000000ED#48) := by decide
theorem test_assemble_refuses : assembleLine "RDSBOX SI 0xED" = .malformed ∧ assembleLine "TE5" = .malformed := by
  decide

/-! ## Witnesses: each statement's hypotheses can hold together -/

theorem derive_completes_from_reset : ∃ t, exec .derive State.reset = .next t :=
  exists_of_isNext (by decide +kernel)

theorem witness_ready : State.reset.fault = false := rfl
theorem witness_halted : haltedState.fault = true := rfl
theorem witness_ready_valid : smallState.fault = false ∧ smallState.sbv = true := ⟨rfl, rfl⟩
theorem witness_ready_invalid : State.reset.fault = false ∧ State.reset.sbv = false := ⟨rfl, rfl⟩

theorem witness_XtimeReducesByPolynomial : (0x80#8).getLsbD 7 = true ∧ (0xFF#8).getLsbD 7 = true := by decide
theorem witness_NonzeroHasExactlyOneInverse : (0x01#8 : Byte) ≠ 0x00#8 ∧ (0xFF#8 : Byte) ≠ 0x00#8 := by decide
theorem witness_WalkConstantsGenerateTheGroup :
    ((0x03#8 : Byte) = 0x03#8 ∨ (0x03#8 : Byte) = 0xF6#8) ∧ ((0xF6#8 : Byte) = 0x03#8 ∨ (0xF6#8 : Byte) = 0xF6#8) ∧
    (1 ≤ 1 ∧ 1 < 51) ∧ (1 ≤ 50 ∧ 50 < 51) := by decide
theorem witness_RotationWrapsBits : (1 ≤ 1 ∧ 1 ≤ 4 ∧ 0 < 8) ∧ (1 ≤ 4 ∧ 4 ≤ 4 ∧ 7 < 8) := by decide
theorem witness_WalkRunsExactly255Steps : 254 < 255 ∧ (1 ≤ 1 ∧ 1 ≤ 255) ∧ (1 ≤ 255 ∧ 255 ≤ 255) := by decide
theorem witness_FailedCheckEndsDerivation :
    multiply (walkStep ⟨0x02#8, 0x01#8, []⟩).p (walkStep ⟨0x02#8, 0x01#8, []⟩).q ≠ 0x01#8 := by decide
theorem witness_IntegrityFaultNeverHappens :
    NoInconsistency (given .reset haltedState) ∧
    step (given .reset haltedState) = .next (resetEvent { haltedState with host := [] }) :=
  ⟨fun h => (by cases h), rfl⟩
theorem witness_DeriveFillsBothArrays :
    ∃ t, ArraysCanonical State.reset ∧ State.reset.fault = false ∧ exec .derive State.reset = .next t :=
  let ⟨t, h⟩ := derive_completes_from_reset
  ⟨t, ⟨rfl, rfl⟩, rfl, h⟩
theorem witness_DeriveForgetsOldContents :
    ∃ s' t', ArraysCanonical State.reset ∧ ArraysCanonical smallState ∧ State.reset.fault = false ∧
      smallState.fault = false ∧ exec .derive State.reset = .next s' ∧ exec .derive smallState = .next t' :=
  let ⟨s', h⟩ := derive_completes_from_reset
  let ⟨t', h'⟩ := exists_of_isNext (r := exec .derive smallState) (by decide +kernel)
  ⟨s', t', ⟨rfl, rfl⟩, ⟨rfl, rfl⟩, rfl, rfl, h, h'⟩
theorem witness_derived_by_DERIVE : ∃ t, State.reset.fault = false ∧ exec .derive State.reset = .next t :=
  let ⟨t, h⟩ := derive_completes_from_reset
  ⟨t, rfl, h⟩
theorem witness_GentblEmitsWholeTable :
    smallState.fault = false ∧ smallState.sbv = true ∧ ∃ t, exec (.gentbl .s ⟨2, 1, 1, 3⟩) smallState = .next t :=
  ⟨rfl, rfl, _, rfl⟩
theorem witness_TableLanesAreIndependent :
    0 < 4 ∧ 3 < 4 ∧ laneOf 3 ⟨1, 2, 3, 4⟩ = laneOf 3 ⟨5, 6, 7, 4⟩ ∧ laneOf 0 ⟨1, 2, 3, 4⟩ = laneOf 0 ⟨1, 6, 7, 8⟩ := by
  decide
theorem witness_TwordEmitsOneWord :
    laneOf 3 ⟨1, 2, 3, 0⟩ = 0x00#8 ∧ laneOf 0 ⟨1, 2, 3, 0⟩ = 0x01#8 := by decide
theorem witness_DecodeAndEncodeAreInverse :
    Instr.wf (.rdsbox .si 0xFF#8) = true ∧ decode 0x0501000000FF#48 = .legal (.rdsbox .si 0xFF#8) := by decide
theorem witness_DecodeFollowsOpcodeMap :
    rowTword ∈ opcodeRows ∧ 0x06FFFFFFFFFF#48 &&& rowTword.mask = rowTword.pattern ∧
    decode 0x06FFFFFFFFFF#48 = .legal (.tword 0xFF#8 ⟨0xFF, 0xFF, 0xFF, 0xFF⟩) ∧
    (0x000000000000#48).extractLsb' 40 8 = 0x00#8 ∧ 0x07#8 ≤ (0x070000000000#48).extractLsb' 40 8 ∧
    0x07#8 ≤ (0xFF0000000000#48).extractLsb' 40 8 := by decide
theorem witness_IllegalWordFaults :
    (given (.command 0x000000000000#48) State.reset).host = .command 0x000000000000#48 :: [] ∧
    (given (.command 0x000000000000#48) State.reset).fault = false ∧
    decode 0x000000000000#48 = .illegal .reservedOpcode ∧
    (∀ row ∈ opcodeRows, 0x000000000000#48 &&& row.mask ≠ row.pattern) ∧
    (0x000000000000#48).extractLsb' 40 8 = 0x00#8 ∧ 0x07#8 ≤ (0x070000000000#48).extractLsb' 40 8 := by decide
theorem witness_FaultStateIgnoresCommands :
    (given (.command 0x030000000000#48) haltedState).host = .command 0x030000000000#48 :: [] ∧
    (given (.command 0x030000000000#48) haltedState).fault = true := by decide
theorem witness_ChecksAreMadeInOrder :
    haltedState.fault = true ∧ State.reset.fault = false ∧ State.reset.sbv = false ∧
    decode 0x050200000053#48 = .illegal .reservedBit ∧
    decode 0x040002010103#48 = .legal (.gentbl .s ⟨2, 1, 1, 3⟩) ∧
    decode 0x050000000053#48 = .legal (.rdsbox .s 0x53#8) ∧
    decode 0x020000005783#48 = .legal (.gfmul 0x57#8 0x83#8) := by decide
/-- The last clause of ChecksAreMadeInOrder with SBV = 1: both guards hold for an RDSBOX. -/
theorem witness_ChecksAreMadeInOrder_completes :
    smallState.fault = false ∧ decode 0x050000000000#48 = .legal (.rdsbox .s 0x00#8) ∧
    (∀ src m, Instr.rdsbox .s 0x00#8 = .gentbl src m → smallState.sbv = true) ∧
    (∀ src idx, Instr.rdsbox .s 0x00#8 = .rdsbox src idx → smallState.sbv = true) :=
  ⟨rfl, by decide, fun _ _ _ => rfl, fun _ _ _ => rfl⟩
theorem witness_FirstCauseStaysUntilReset :
    haltedState.fault = true ∧
    step (given (.command 0x000000000000#48) haltedState) = .next haltedState ∧
    (∀ rest, (given (.command 0x000000000000#48) haltedState).host ≠ .reset :: rest) ∧
    (∀ cw n rest, (given (.command 0x000000000000#48) haltedState).host ≠ .resetDuring cw n :: rest) ∧
    (∀ rest, (given (.command 0x000000000000#48) haltedState).host ≠ .powerCycle :: rest) :=
  ⟨rfl, rfl, fun _ h => by simp [given] at h, fun _ _ _ h => by simp [given] at h,
    fun _ h => by simp [given] at h⟩
theorem witness_ResetEventClearsState : (given .reset haltedState).host = .reset :: [] := rfl
theorem witness_InterruptedCommandKeepsEmittedWords :
    (given (.resetDuring 0x040002010103#48 256) smallState).host = .resetDuring 0x040002010103#48 256 :: [] ∧
    decode 0x040002010103#48 = .legal (.gentbl .s ⟨2, 1, 1, 3⟩) := by decide
theorem witness_PowerCycleLosesEverything : (given .powerCycle haltedState).host = .powerCycle :: [] := rfl
theorem witness_StepRunsDecodedCommand :
    (given (.command 0x020000005783#48) State.reset).host = .command 0x020000005783#48 :: [] ∧
    decode 0x020000005783#48 = .legal (.gfmul 0x57#8 0x83#8) ∧ Instr.wf (.gfmul 0x57#8 0x83#8) = true ∧
    decodeTableWord 48 0x020000005783 = some (.gfmul 0x57#8 0x83#8) := by decide
theorem witness_IdleKeepsState : haltedState.host = [] := rfl
theorem witness_StatusFieldsAndValues :
    (FaultFlagsAgree smallState ∧ smallState.fcause = .none) ∧
    (FaultFlagsAgree haltedState ∧ haltedState.fcause = .illegalCommand) ∧
    (FaultFlagsAgree { haltedState with fcause := .gfInconsistency } ∧
      ({ haltedState with fcause := .gfInconsistency } : State).fcause = .gfInconsistency) ∧
    (FaultFlagsAgree { haltedState with fcause := .sboxNotReady } ∧
      ({ haltedState with fcause := .sboxNotReady } : State).fcause = .sboxNotReady) :=
  ⟨⟨⟨by decide, by decide, by decide⟩, rfl⟩, ⟨⟨by decide, by decide, by decide⟩, rfl⟩,
    ⟨⟨by decide, by decide, by decide⟩, rfl⟩, ⟨⟨by decide, by decide, by decide⟩, rfl⟩⟩

/-- The state with the printed S-boxes meets R22, so that the invariant can hold with SBV = 1. -/
theorem derivedState_meets_R22 : SboxesDerived derivedState := by
  have hz : memRead .s 0x00#8 derivedState = 0x63#8 := by decide +kernel
  have h1 : ∀ x, memRead .si (memRead .s x derivedState) derivedState = x := by decide +kernel
  have h2 : ∀ x, memRead .s (memRead .si x derivedState) derivedState = x := by decide +kernel
  have h3 : ∀ i, memRead .s i derivedState = printedBox .s i := by decide +kernel
  have h4 : ∀ i, memRead .si i derivedState = printedBox .si i := by decide +kernel
  exact
    { bijective := Function.bijective_iff_has_inverse.mpr ⟨fun y => memRead .si y derivedState, h1, h2⟩
      zeroEntry := hz
      inverseOfForward := h1
      forwardOfInverse := h2
      printed := fun src => by cases src; exacts [h3, h4]
      pOne := rfl
      qOne := rfl }

theorem witness_invariants_keep :
    SboxInvariant (given (.command 0x020000005783#48) derivedState) ∧
    FaultFlagsAgree (given (.command 0x020000005783#48) derivedState) ∧
    WalkRegistersIdle (given (.command 0x020000005783#48) derivedState) ∧
    ∃ t, step (given (.command 0x020000005783#48) derivedState) = .next t :=
  ⟨fun _ => { derivedState_meets_R22 with }, ⟨by decide, by decide, by decide⟩, (fun h => by cases h),
    _, rfl⟩
theorem witness_StepsKeepArraysCanonical :
    ArraysCanonical (given (.command 0x020000005783#48) smallState) ∧
    ∃ t, step (given (.command 0x020000005783#48) smallState) = .next t :=
  ⟨⟨rfl, rfl⟩, _, rfl⟩

/-- Two states that differ in their arrays alone, with SBV = 0. -/
theorem witness_UnspecifiedContentsAreUnobservable :
    Indistinguishable (given (.command 0x050000000000#48) State.reset)
      { given (.command 0x050000000000#48) State.reset with sbox := [(0, 0xAA#8)] } ∧
    ∃ t, step (given (.command 0x050000000000#48) State.reset) = .next t :=
  ⟨⟨rfl, rfl, rfl, rfl, rfl, rfl, rfl, rfl, (fun h => by cases h)⟩, _, rfl⟩
theorem witness_OutOnlyGrowsAtItsEnd :
    emits .derive = false ∧ (∃ t, exec .derive haltedState = .next t) ∧
    (∃ t, step (given .reset haltedState) = .next t) ∧ ∀ rest, (given .reset haltedState).host ≠ .powerCycle :: rest :=
  ⟨rfl, ⟨_, rfl⟩, ⟨_, rfl⟩, fun _ h => by simp [given] at h⟩
theorem witness_CommandsWriteOnlyTheirSets :
    (∃ t, exec (.gfadd 1#8 2#8) State.reset = .next t) ∧ (∃ t, exec .derive State.reset = .next t) ∧
    (∃ t, exec (.rdsbox .s 0#8) smallState = .next t) ∧
    (∃ t, exec (.rdsbox .s 0#8) State.reset = .next t ∧ t.fault = true) ∧
    (∃ t, exec (.gentbl .s ⟨2, 1, 1, 3⟩) State.reset = .next t ∧ t.fault = true) ∧
    (∃ t, exec (.tword 1#8 ⟨2, 1, 1, 3⟩) State.reset = .next t) :=
  ⟨⟨_, rfl⟩, derive_completes_from_reset, ⟨_, rfl⟩, ⟨_, rfl, rfl⟩, ⟨_, rfl, rfl⟩, ⟨_, rfl⟩⟩
theorem witness_ResHoldsTheLastResult :
    givesResult (.tword 1#8 ⟨2, 1, 1, 3⟩) = false ∧ (∃ t, exec (.tword 1#8 ⟨2, 1, 1, 3⟩) State.reset = .next t) ∧
    ∃ t, presentWord 0x000000000000#48 State.reset = .next t ∧ t.fault = true :=
  ⟨rfl, ⟨_, rfl⟩, _, rfl, rfl⟩
theorem witness_OnlyDeriveSetsSbv :
    Instr.gfadd 1#8 2#8 ≠ .derive ∧ decode 0x010000000102#48 ≠ .legal .derive ∧
    (∃ t, exec (.gfadd 1#8 2#8) State.reset = .next t) ∧
    ∃ t, presentWord 0x010000000102#48 State.reset = .next t :=
  ⟨by decide, by decide, ⟨_, rfl⟩, _, rfl⟩

end Sys2Proof.Tests
end

section
/-!
PROOFS. Completion and dispatch of a step (O42, O47). Every command and every step ends in a next state:
the model's one stop stands behind a walk of DERIVE that does not return, and P is the power 0x03^k after
k steps, so it is back at 0x01 after 255 of them (R75, R86).
-/

namespace Sys2Proof.Proofs

open Sys2Proof.Machine Sys2Proof.Laws

/-! ## The walk of DERIVE returns -/

theorem walkAfter_succ (k : Nat) (sbox : Memory) :
    walkAfter (k + 1) sbox = walkStep (walkAfter k sbox) :=
  Function.iterate_succ_apply' walkStep k _

/-- P runs through the powers of the walk multiplier (R92). -/
theorem walkAfter_p (k : Nat) (sbox : Memory) : (walkAfter k sbox).p = power 0x03#8 k := by
  induction k with
  | zero => rfl
  | succ k ih => rw [walkAfter_succ, walkStep_p, ih, power]

/-- The order of 0x03 divides the walk length (R75). -/
theorem power_three_walkLength : power 0x03#8 walkLength = 0x01#8 := by decide +kernel

/-- A bound on the steps that lets P come back to 0x01 is not used up. -/
theorem walk_ne_unfinished {n k : Nat} (hk : k < n) {w : Walk} (hp : (walkStep^[k + 1] w).p = 0x01#8) :
    walk n w ≠ .unfinished := by
  induction n generalizing k w with
  | zero => omega
  | succ n ih =>
    rw [walk_succ]
    split
    · split
      · simp
      next hne =>
        cases k with
        | zero => exact absurd hp hne
        | succ k => exact ih (by omega) hp
    · simp

/-- The walk of DERIVE ends within its 255 steps, whatever SBOX holds (R86). -/
theorem walk_walkLength_ne_unfinished (sbox : Memory) : walk walkLength (walkStart sbox) ≠ .unfinished :=
  have hp : (walkAfter walkLength sbox).p = 0x01#8 := by rw [walkAfter_p, power_three_walkLength]
  walk_ne_unfinished (k := 254) (by decide) hp

/-! ## Every command ends in a next state -/

theorem exists_next_whenReady (s : State) {k : Result} (hk : ∃ t, k = .next t) :
    ∃ t, whenReady s k = .next t := by
  obtain ⟨-, h⟩ | ⟨-, h⟩ := whenReady_cases s k
  · exact ⟨s, h⟩
  · rwa [h]

theorem exists_next_whenSboxValid (s : State) {k : Result} (hk : ∃ t, k = .next t) :
    ∃ t, whenSboxValid s k = .next t := by
  obtain ⟨-, h⟩ | ⟨-, h⟩ := whenSboxValid_cases s k
  · exact ⟨_, h⟩
  · rwa [h]

theorem exists_next_finishDerive (s : State) {e : WalkEnd} (he : e ≠ .unfinished) :
    ∃ t, finishDerive s e = .next t := by
  cases e with
  | returned w => exact ⟨_, rfl⟩
  | inconsistent w => exact ⟨_, rfl⟩
  | unfinished => exact absurd rfl he

theorem exists_next_exec (i : Instr) (s : State) : ∃ t, exec i s = .next t := by
  cases i with
  | gfadd a b => exact exists_next_whenReady s ⟨_, rfl⟩
  | gfmul a b => exact exists_next_whenReady s ⟨_, rfl⟩
  | derive =>
    exact exists_next_whenReady s (exists_next_finishDerive _ (walk_walkLength_ne_unfinished s.sbox))
  | gentbl src m => exact exists_next_whenReady s (exists_next_whenSboxValid s ⟨_, rfl⟩)
  | rdsbox src idx => exact exists_next_whenReady s (exists_next_whenSboxValid s ⟨_, rfl⟩)
  | tword x m => exact exists_next_whenReady s ⟨_, rfl⟩

/-! ## A presented word runs its command -/

/-- In the fault state every command is ignored (R117). -/
theorem exec_halted {s : State} (h : s.fault = true) (i : Instr) : exec i s = .next s := by
  cases i <;> exact whenReady_halted h _

/-- The check that a word is accepted at all is the first check of its command (R115, R117). -/
theorem presentWord_legal {cw : CommandWord} {i : Instr} (hd : decode cw = .legal i) (s : State) :
    presentWord cw s = exec i s := by
  have h : presentWord cw s = whenReady s (exec i s) := by rw [presentWord, hd]
  obtain ⟨hf, hw⟩ | ⟨-, hw⟩ := whenReady_cases s (exec i s)
  · rw [h, hw, exec_halted hf]
  · rw [h, hw]

theorem presentWord_illegal {cw : CommandWord} {why : Illegal} (hd : decode cw = .illegal why)
    (s : State) :
    presentWord cw s = whenReady s (.next (raiseFault .illegalCommand s)) := by
  rw [presentWord, hd]

theorem step_command {cw : CommandWord} {rest : List HostEvent} {s : State}
    (h : s.host = .command cw :: rest) : step s = presentWord cw (takeInput rest s) := by
  rw [step, takeStep, h]
  rfl

theorem decodeTableWord_eq_some {nbits w : Nat} {i : Instr} :
    decodeTableWord nbits w = some i ↔ decode (tableWord nbits w) = .legal i := by
  unfold decodeTableWord
  cases decode (tableWord nbits w) <;> simp

/-! ## Every step ends in a next state -/

theorem exists_next_presentWord (cw : CommandWord) (s : State) : ∃ t, presentWord cw s = .next t := by
  cases hd : decode cw with
  | legal i => simpa only [presentWord_legal hd] using exists_next_exec i s
  | illegal why => simpa only [presentWord_illegal hd] using exists_next_whenReady s ⟨_, rfl⟩

theorem exists_next_interruptWord (cw : CommandWord) (n : Nat) (s : State) :
    ∃ t, interruptWord cw n s = .next t := by
  obtain ⟨t, ht⟩ := exists_next_presentWord cw s
  exact ⟨abandonCommand ((wordsOf s t).take n) s, by rw [interruptWord, ht]⟩

theorem exists_next_step (s : State) : ∃ t, step s = .next t := by
  obtain ⟨-, h⟩ | ⟨cw, rest, -, h⟩ | ⟨rest, -, h⟩ | ⟨cw, n, rest, -, h⟩ | ⟨rest, -, h⟩ := step_cases s
  · exact ⟨s, h⟩
  · exact h ▸ exists_next_presentWord cw _
  · exact ⟨_, h⟩
  · exact h ▸ exists_next_interruptWord cw n _
  · exact ⟨_, h⟩

/-! ## The two statements -/

/-- Settles O42: only DERIVE could stop, and its walk is back at P = 0x01 after 255 steps. -/
theorem everyCommandCompletes : Obligations.EveryCommandCompletes :=
  ⟨exists_next_exec, exists_next_step⟩

/-- Settles O47: a step takes the word, and the check that accepts it is the command's own first check. -/
theorem stepRunsDecodedCommand : Obligations.StepRunsDecodedCommand := by
  constructor
  · intro cw rest i s hhost hd _
    rw [step_command hhost, presentWord_legal hd]
    rfl
  · intro nbits w i s hd
    rw [step_command (withFetchWord_host s nbits w), takeInput_withFetchWord,
      presentWord_legal (decodeTableWord_eq_some.mp hd)]

end Sys2Proof.Proofs
end

section
/-!
PROOFS. What DERIVE does (R83 to R88), whatever the arrays held. The stores of a walk do not depend on
what SBOX held, so a walk over an array is the walk over the empty array laid over it, and that one walk
is evaluated once.
-/

namespace Sys2Proof.Proofs

open Sys2Proof.Machine Sys2Proof.Laws

/-! ## A walk laid over an array -/

/-- `v` is `w` with the array `m` under it: P and Q agree, and an entry that `w` has not stored is the one
of `m`. -/
structure LaidOver (m : Memory) (w v : Walk) : Prop where
  p : v.p = w.p
  q : v.q = w.q
  read : ∀ a, Memory.read v.sbox a = (Memory.read w.sbox a).or (Memory.read m a)

theorem walkStart_laidOver (m : Memory) : LaidOver m (walkStart []) (walkStart m) :=
  ⟨rfl, rfl, fun _ => rfl⟩

theorem walkStep_laidOver {m : Memory} {w v : Walk} (h : LaidOver m w v) :
    LaidOver m (walkStep w) (walkStep v) where
  p := by rw [walkStep_p, walkStep_p, h.p]
  q := by rw [walkStep_q, walkStep_q, h.q]
  read a := by
    rw [walkStep_sbox, walkStep_sbox, h.p, h.q, read_write, read_write, h.read]
    split <;> rfl

theorem walkChecks_laidOver {m : Memory} {w v : Walk} (h : LaidOver m w v) :
    walkChecks v = walkChecks w := by
  rw [walkChecks, walkChecks, h.p, h.q]

/-- Both walks return at the same step. -/
theorem walk_returned_laidOver {m : Memory} {n : Nat} {w v w' : Walk} (h : LaidOver m w v)
    (hw : walk n w = .returned w') : ∃ v', walk n v = .returned v' ∧ LaidOver m w' v' := by
  induction n generalizing w v with
  | zero => cases hw
  | succ n ih =>
    have hs := walkStep_laidOver h
    rw [walk_succ] at hw ⊢
    rw [walkChecks_laidOver hs, hs.p]
    split at hw
    next hc =>
      rw [if_pos hc]
      split at hw
      next hp =>
        cases hw
        exact ⟨_, if_pos hp, hs⟩
      next hp =>
        rw [if_neg hp]
        exact ih hs hw
    next => cases hw

/-! ## The walk of DERIVE -/

/-- The 255 entries of the printed forward S-box that the walk stores (R86). -/
def printedStores : Memory := indexes.tail.map fun i => (i.toNat, printedBox .s i)

theorem walk_from_empty :
    walk walkLength (walkStart []) = .returned ⟨0x01#8, 0x01#8, printedStores⟩ := by decide +kernel

theorem read_map_cells (f : Byte → Byte) {l : List Byte} {i : Byte} (hi : i ∈ l) :
    Memory.read (l.map fun j => (j.toNat, f j)) i.toNat = some (f i) := by
  induction l with
  | nil => cases hi
  | cons j l ih =>
    rw [List.map_cons, read_cons]
    split
    next h => rw [BitVec.eq_of_toNat_eq h]
    next h =>
      exact ih ((List.mem_cons.mp hi).resolve_left fun hij => h (congrArg _ hij))

theorem read_printedStores {i : Byte} (hi : i ≠ 0x00#8) :
    Memory.read printedStores i.toNat = some (printedBox .s i) :=
  read_map_cells _ ((List.mem_cons.mp (mem_indexes i)).resolve_left hi)

/-- The walk of DERIVE returns to P = Q = 0x01 with the printed byte in every entry but entry 0,
whatever SBOX held (R83, R86). -/
theorem walk_walkLength_returned (m : Memory) :
    ∃ w, walk walkLength (walkStart m) = .returned w ∧ w.p = 0x01#8 ∧ w.q = 0x01#8 ∧
      ∀ i, i ≠ 0x00#8 → entryOf .s w.sbox i = printedBox .s i := by
  obtain ⟨w, hw, hp, hq, hread⟩ := walk_returned_laidOver (walkStart_laidOver m) walk_from_empty
  refine ⟨w, hw, hp, hq, fun i hi => ?_⟩
  have hstored : Memory.read w.sbox i.toNat = some (printedBox .s i) := by
    rw [hread, read_printedStores hi, Option.some_or]
  simp only [entryOf, hstored]

/-! ## The inverse pass -/

theorem printedBox_si_s : ∀ i, printedBox .si (printedBox .s i) = i := by decide +kernel

theorem printedBox_s_si : ∀ i, printedBox .s (printedBox .si i) = i := by decide +kernel

/-- A run of stores at distinct keys leaves each key with its value. -/
theorem entryOf_foldl_write (src : Source) {key : Byte → Byte} (hkey : key.Injective)
    (val : Byte → Byte) {l : List Byte} {i : Byte} (hi : i ∈ l) (m : Memory) :
    entryOf src (l.foldl (fun m j => Memory.write m (key j).toNat (val j)) m) (key i) = val i := by
  induction l using List.reverseRecOn with
  | nil => cases hi
  | append_singleton l j ih =>
    rw [List.foldl_append, List.foldl_cons, List.foldl_nil, entryOf_write]
    split
    next h => rw [hkey h]
    next h =>
      refine ih ((List.mem_append.mp hi).resolve_right fun hij => h ?_)
      rw [List.mem_singleton.mp hij]

/-- The inverse pass over the printed SBOX leaves the printed ISBOX, whatever ISBOX held (R84). -/
theorem entryOf_invertArray {sbox : Memory} (h : ∀ i, entryOf .s sbox i = printedBox .s i)
    (isbox : Memory) (i : Byte) : entryOf .si (invertArray sbox isbox) i = printedBox .si i := by
  have hkey : (entryOf .s sbox).Injective := by
    rw [funext h]
    exact Function.LeftInverse.injective printedBox_si_s
  have hi : entryOf .s sbox (printedBox .si i) = i := by rw [h, printedBox_s_si]
  have hread := entryOf_foldl_write .si hkey (fun j => j) (mem_indexes (printedBox .si i)) isbox
  rwa [hi] at hread

/-! ## DERIVE -/

/-- DERIVE fills both arrays with the printed S-boxes and sets SBV, P and Q, and writes nothing else; an
array in canonical form stays so (R88). -/
theorem exec_derive_ready {s : State} (hs : s.fault = false) :
    ∃ sbox isbox : Memory,
      exec .derive s =
        .next { s with sbox := sbox, isbox := isbox, sbv := true, p := 0x01#8, q := 0x01#8 } ∧
      (∀ i, entryOf .s sbox i = printedBox .s i) ∧ (∀ i, entryOf .si isbox i = printedBox .si i) ∧
      (s.sbox.wf = true → sbox.wf = true) ∧ (s.isbox.wf = true → isbox.wf = true) := by
  obtain ⟨⟨p, q, m⟩, hw, rfl, rfl, hread⟩ := walk_walkLength_returned s.sbox
  have hsbox (i : Byte) :
      entryOf .s (m.write (BitVec.toNat 0x00#8) affineConstant) i = printedBox .s i := by
    rw [entryOf_write]
    split
    next h => subst h; rfl
    next h => exact hread i h
  refine ⟨_, _, ?_, hsbox, entryOf_invertArray hsbox s.isbox, fun h => ?_, fun h => wf_invertArray _ h⟩
  · have hexec : exec .derive s = finishDerive (setSbv false s) (walk walkLength (walkStart s.sbox)) :=
      whenReady_ready hs _
    rw [hexec, hw]
    simp only [finishDerive, invert, fixZero, writeSbox, setIsbox, setWalk, setSbv]
  · exact wf_write ((wf_walk walkLength h).1 _ hw) _ _

end Sys2Proof.Proofs
end

section
/-!
PROOFS. What a command and a step can do, said once: the possible next states of a command, and the parts
of a step that a state invariant has to pass (R27, R112, R113, R116, R117).
-/

namespace Sys2Proof.Proofs

open Sys2Proof.Machine Sys2Proof.Laws

/-! ## The possible next states of a command -/

/-- The commands that read an array and so need SBV = 1 (R113). -/
def needsSbox : Instr → Bool
  | .gentbl _ _ => true
  | .rdsbox _ _ => true
  | .gfadd _ _ => false
  | .gfmul _ _ => false
  | .derive => false
  | .tword _ _ => false

/-- The next states that a command may answer in the state `s`. -/
inductive Effect (s : State) : Instr → State → Prop where
  /-- Ignored in the fault state (R117). -/
  | ignored {i : Instr} (hf : s.fault = true) : Effect s i s
  /-- SboxNotReady (R113). -/
  | notReady {i : Instr} (hf : s.fault = false) (hsbv : s.sbv = false) (hi : needsSbox i = true) :
      Effect s i (raiseFault .sboxNotReady s)
  /-- A result in RES (R16). -/
  | result {i : Instr} (v : Byte) (hf : s.fault = false) (hi : givesResult i = true) :
      Effect s i (setRes v s)
  /-- Words at the end of OUT (R18). -/
  | emitted {i : Instr} (ws : List TableWord) (hf : s.fault = false) (hi : emits i = true) :
      Effect s i (emitAll ws s)
  /-- A completed derivation (R88). -/
  | derived (sbox isbox : Memory) (hf : s.fault = false)
      (hsbox : ∀ i, entryOf .s sbox i = printedBox .s i)
      (hisbox : ∀ i, entryOf .si isbox i = printedBox .si i)
      (hwf : s.sbox.wf = true → sbox.wf = true) (hiwf : s.isbox.wf = true → isbox.wf = true) :
      Effect s .derive { s with sbox := sbox, isbox := isbox, sbv := true, p := 0x01#8, q := 0x01#8 }

theorem effect_of_whenReady {i : Instr} {s t : State} {k : Result}
    (hk : s.fault = false → k = .next t → Effect s i t) (h : whenReady s k = .next t) :
    Effect s i t := by
  obtain ⟨hf, hw⟩ | ⟨hf, hw⟩ := whenReady_cases s k
  · cases hw.symm.trans h
    exact .ignored hf
  · exact hk hf (hw.symm.trans h)

theorem effect_of_whenSboxValid {i : Instr} {s t : State} {k : Result} (hf : s.fault = false)
    (hi : needsSbox i = true) (hk : k = .next t → Effect s i t) (h : whenSboxValid s k = .next t) :
    Effect s i t := by
  obtain ⟨hsbv, hw⟩ | ⟨-, hw⟩ := whenSboxValid_cases s k
  · cases hw.symm.trans h
    exact .notReady hf hsbv hi
  · exact hk (hw.symm.trans h)

theorem exec_effect {i : Instr} {s t : State} (h : exec i s = .next t) : Effect s i t := by
  cases i with
  | gfadd a b => exact effect_of_whenReady (fun hf hk => by cases hk; exact .result _ hf rfl) h
  | gfmul a b => exact effect_of_whenReady (fun hf hk => by cases hk; exact .result _ hf rfl) h
  | derive =>
    cases hf : s.fault with
    | true =>
      cases (exec_halted hf .derive).symm.trans h
      exact .ignored hf
    | false =>
      obtain ⟨sbox, isbox, hexec, hsbox, hisbox, hwf, hiwf⟩ := exec_derive_ready hf
      cases hexec.symm.trans h
      exact .derived sbox isbox hf hsbox hisbox hwf hiwf
  | gentbl src m =>
    exact effect_of_whenReady (fun hf => effect_of_whenSboxValid hf rfl
      fun hk => by cases hk; exact .emitted _ hf rfl) h
  | rdsbox src idx =>
    exact effect_of_whenReady (fun hf => effect_of_whenSboxValid hf rfl
      fun hk => by cases hk; exact .result _ hf rfl) h
  | tword x m => exact effect_of_whenReady (fun hf hk => by cases hk; exact .emitted _ hf rfl) h

/-- A presented word runs its command, raises IllegalCommand, or is ignored. -/
theorem presentWord_cases {cw : CommandWord} {s t : State} (h : presentWord cw s = .next t) :
    (∃ i, decode cw = .legal i ∧ exec i s = .next t) ∨
    (s.fault = false ∧ t = raiseFault .illegalCommand s) ∨ (s.fault = true ∧ t = s) := by
  cases hd : decode cw with
  | legal i => exact .inl ⟨i, rfl, presentWord_legal hd s ▸ h⟩
  | illegal why =>
    rw [presentWord_illegal hd] at h
    obtain ⟨hf, hw⟩ | ⟨hf, hw⟩ := whenReady_cases s (.next (raiseFault .illegalCommand s))
    · cases hw.symm.trans h
      exact .inr (.inr ⟨hf, rfl⟩)
    · cases hw.symm.trans h
      exact .inr (.inl ⟨hf, rfl⟩)

theorem interruptWord_of_presentWord {cw : CommandWord} {s t : State}
    (h : presentWord cw s = .next t) (n : Nat) :
    interruptWord cw n s = .next (abandonCommand ((wordsOf s t).take n) s) := by
  rw [interruptWord, h]

/-- An interrupted word leaves the abandoned state, with some words emitted (R130). -/
theorem interruptWord_eq_abandonCommand {cw : CommandWord} {n : Nat} {s t : State}
    (h : interruptWord cw n s = .next t) : ∃ ws, t = abandonCommand ws s := by
  obtain ⟨u, hu⟩ := exists_next_presentWord cw s
  cases (interruptWord_of_presentWord hu n).symm.trans h
  exact ⟨_, rfl⟩

/-! ## The parts of a step that an invariant passes -/

/-- A predicate of states that each part of a step keeps; `KeptByParts.step` is the whole step. -/
structure KeptByParts (P : State → Prop) : Prop where
  takeInput : ∀ rest s, P s → P (takeInput rest s)
  effect : ∀ i s t, P s → Effect s i t → P t
  illegal : ∀ s, s.fault = false → P s → P (raiseFault .illegalCommand s)
  reset : ∀ s, P s → P (resetEvent s)
  abandon : ∀ ws s, P s → P (abandonCommand ws s)
  powerOn : ∀ s, P s → P (powerOnReset s)

theorem KeptByParts.presentWord {P : State → Prop} (hP : KeptByParts P) {cw : CommandWord}
    {s t : State} (hs : P s) (h : presentWord cw s = .next t) : P t := by
  obtain ⟨i, -, hi⟩ | ⟨hf, rfl⟩ | ⟨-, rfl⟩ := presentWord_cases h
  · exact hP.effect i s t hs (exec_effect hi)
  · exact hP.illegal s hf hs
  · exact hs

theorem KeptByParts.step {P : State → Prop} (hP : KeptByParts P) (s t : State) (hs : P s)
    (h : step s = .next t) : P t := by
  obtain ⟨-, he⟩ | ⟨cw, rest, -, he⟩ | ⟨rest, -, he⟩ | ⟨cw, n, rest, -, he⟩ | ⟨rest, -, he⟩ :=
    step_cases s
  all_goals rw [he] at h
  · cases h
    exact hs
  · exact hP.presentWord (hP.takeInput rest s hs) h
  · cases h
    exact hP.reset _ (hP.takeInput rest s hs)
  · obtain ⟨ws, rfl⟩ := interruptWord_eq_abandonCommand h
    exact hP.abandon ws _ (hP.takeInput rest s hs)
  · cases h
    exact hP.powerOn _ (hP.takeInput rest s hs)

end Sys2Proof.Proofs
end

section
/-!
PROOFS. The invariants of the state (O50 to O54).
-/

namespace Sys2Proof.Proofs

open Sys2Proof.Machine Sys2Proof.Laws

/-! ## Canonical arrays (O51) -/

theorem arraysCanonical_keptByParts : KeptByParts ArraysCanonical where
  takeInput _ _ h := h
  effect i s t h he := by
    cases he with
    | derived sbox isbox hf hsbox hisbox hwf hiwf => exact ⟨hwf h.1, hiwf h.2⟩
    | ignored | notReady | result | emitted => exact h
  illegal _ _ h := h
  reset _ h := h
  abandon _ _ _ := ⟨wf_nil, wf_nil⟩
  powerOn _ _ := ⟨wf_nil, wf_nil⟩

/-- Settles O51: the walk, the fixed entry and the inverse pass are stores at 8-bit indexes, and each of
those keeps the canonical form. -/
theorem stepsKeepArraysCanonical : Obligations.StepsKeepArraysCanonical :=
  arraysCanonical_keptByParts.step

/-! ## The S-box invariant (O52) -/

/-- Parts (a) to (c) of R22 follow from (d), as the printed boxes are inverse to each other. -/
theorem sboxesDerived_of_printed {s : State} (h : ∀ src i, memRead src i s = printedBox src i)
    (hp : s.p = 0x01#8) (hq : s.q = 0x01#8) : SboxesDerived s where
  bijective := by
    simp only [h]
    exact Function.bijective_iff_has_inverse.mpr ⟨printedBox .si, printedBox_si_s, printedBox_s_si⟩
  zeroEntry := (h .s 0x00#8).trans rfl
  inverseOfForward x := by rw [h, h, printedBox_si_s]
  forwardOfInverse x := by rw [h, h, printedBox_s_si]
  printed := h
  pOne := hp
  qOne := hq

theorem memRead_printed {s : State} (hsbox : ∀ i, entryOf .s s.sbox i = printedBox .s i)
    (hisbox : ∀ i, entryOf .si s.isbox i = printedBox .si i) (src : Source) (i : Byte) :
    memRead src i s = printedBox src i := by
  cases src
  · exact hsbox i
  · exact hisbox i

theorem sboxInvariant_keptByParts : KeptByParts SboxInvariant where
  takeInput _ _ h hv := { h hv with }
  effect i s t h he := by
    cases he with
    | ignored | notReady | result | emitted => exact fun hv => { h hv with }
    | derived sbox isbox hf hsbox hisbox hwf hiwf =>
      exact fun _ => sboxesDerived_of_printed (memRead_printed hsbox hisbox) rfl rfl
  illegal _ _ h hv := { h hv with }
  reset _ _ hv := nomatch hv
  abandon _ _ _ hv := nomatch hv
  powerOn _ _ hv := nomatch hv

/-- Settles O52: DERIVE alone writes the arrays, P or Q beside SBV = 1, and it establishes R22 whatever
they held; a reset clears SBV. -/
theorem stepsKeepSboxInvariant : Obligations.StepsKeepSboxInvariant :=
  sboxInvariant_keptByParts.step

/-! ## The flags (O50) -/

theorem faultFlagsAgree_of_clear {s : State} (hf : s.fault = false) (hc : s.fcause = .none) :
    FaultFlagsAgree s :=
  ⟨by simp [hf, hc], by simp [hc], by simp [hc]⟩

theorem faultFlagsAgree_keptByParts : KeptByParts FaultFlagsAgree where
  takeInput _ _ h := h
  effect i s t h he := by
    cases he with
    | notReady hf hsbv hi => exact ⟨by simp, fun _ => hsbv, fun _ => hsbv⟩
    | derived sbox isbox hf hsbox hisbox hwf hiwf => exact faultFlagsAgree_of_clear hf (h.1.mp hf)
    | ignored | result | emitted => exact h
  illegal _ _ _ := ⟨by simp, by simp, by simp⟩
  reset _ _ := faultFlagsAgree_of_clear rfl rfl
  abandon _ _ _ := faultFlagsAgree_of_clear rfl rfl
  powerOn _ _ := faultFlagsAgree_of_clear rfl rfl

/-- Settles O50: SboxNotReady is raised only beside SBV = 0, and DERIVE sets SBV only beside FCAUSE = 0. -/
theorem faultFlagsKeepAgreeing : Obligations.FaultFlagsKeepAgreeing :=
  faultFlagsAgree_keptByParts.step

/-! ## P and Q before a DERIVE (O53) -/

theorem walkRegistersIdle_keptByParts : KeptByParts WalkRegistersIdle where
  takeInput _ _ h := h
  effect i s t h he := by
    cases he with
    | derived sbox isbox hf hsbox hisbox hwf hiwf => exact fun hv => nomatch hv
    | ignored | notReady | result | emitted => exact h
  illegal _ _ h := h
  reset _ _ _ := ⟨rfl, rfl⟩
  abandon _ _ _ _ := ⟨rfl, rfl⟩
  powerOn _ _ _ := ⟨rfl, rfl⟩

/-- Settles O53: DERIVE alone writes P and Q, and its walk returns, so SBV = 1 stands beside its last
pair. -/
theorem stepsKeepIdleWalkRegisters : Obligations.StepsKeepIdleWalkRegisters :=
  walkRegistersIdle_keptByParts.step

/-! ## Reset (O54) -/

/-- Settles O54: no entry is stated, SBV = 0 and all registers are clear. -/
theorem resetStateMeetsInvariants : Obligations.ResetStateMeetsInvariants := by
  refine ⟨reset_arrays_wf, ?_, faultFlagsAgree_of_clear rfl rfl, fun _ => ⟨rfl, rfl⟩, ?_⟩
  · intro hv
    cases hv
  · intro hc
    cases hc

end Sys2Proof.Proofs
end

section
/-!
PROOFS. Unspecified contents are unobservable (O55): a command reads an array only after its SBV check,
and DERIVE leaves the printed boxes whatever the arrays held (R26).
-/

namespace Sys2Proof.Proofs

open Sys2Proof.Machine Sys2Proof.Laws

/-! ## Operations keep two states indistinguishable -/

section

variable {s t : State} (h : Indistinguishable s t)
include h

theorem indistinguishable_takeInput (rest : List HostEvent) :
    Indistinguishable (takeInput rest s) (takeInput rest t) :=
  { h with host := rfl }

theorem indistinguishable_raiseFault (c : Cause) :
    Indistinguishable (raiseFault c s) (raiseFault c t) :=
  { h with fault := rfl, fcause := rfl }

theorem indistinguishable_setRes (v : Byte) : Indistinguishable (setRes v s) (setRes v t) :=
  { h with res := rfl }

theorem indistinguishable_emitAll (ws : List TableWord) :
    Indistinguishable (emitAll ws s) (emitAll ws t) :=
  { h with out := congrArg (· ++ ws) h.out }

theorem indistinguishable_resetEvent : Indistinguishable (resetEvent s) (resetEvent t) :=
  { h with sbv := rfl, p := rfl, q := rfl, res := rfl, fault := rfl, fcause := rfl
           arrays := fun hv => nomatch hv }

theorem indistinguishable_abandonCommand (ws : List TableWord) :
    Indistinguishable (abandonCommand ws s) (abandonCommand ws t) :=
  { h with sbv := rfl, p := rfl, q := rfl, res := rfl, fault := rfl, fcause := rfl
           out := congrArg (· ++ ws) h.out, arrays := fun hv => nomatch hv }

theorem indistinguishable_powerOnReset : Indistinguishable (powerOnReset s) (powerOnReset t) :=
  ⟨rfl, rfl, rfl, rfl, rfl, rfl, rfl, h.host, fun hv => nomatch hv⟩

end

/-! ## Results that no observer can tell apart -/

/-- Both results are next states, and those are indistinguishable. -/
inductive SameView : Result → Result → Prop where
  | next {s t : State} (h : Indistinguishable s t) : SameView (.next s) (.next t)

theorem sameView_whenReady {s t : State} {k l : Result} (h : Indistinguishable s t)
    (hk : s.fault = false → SameView k l) : SameView (whenReady s k) (whenReady t l) := by
  cases hf : s.fault with
  | true =>
    rw [whenReady_halted hf, whenReady_halted (h.fault ▸ hf)]
    exact .next h
  | false =>
    rw [whenReady_ready hf, whenReady_ready (h.fault ▸ hf)]
    exact hk hf

theorem sameView_whenSboxValid {s t : State} {k l : Result} (h : Indistinguishable s t)
    (hk : s.sbv = true → SameView k l) : SameView (whenSboxValid s k) (whenSboxValid t l) := by
  cases hv : s.sbv with
  | true =>
    rw [whenSboxValid_valid hv, whenSboxValid_valid (h.sbv ▸ hv)]
    exact hk hv
  | false =>
    rw [whenSboxValid_invalid hv, whenSboxValid_invalid (h.sbv ▸ hv)]
    exact .next (indistinguishable_raiseFault h _)

theorem generateTable_eq_of_memRead_eq {src : Source} {s t : State}
    (h : ∀ i, memRead src i s = memRead src i t) (m : MulVec) :
    generateTable src m s = generateTable src m t := by
  simp only [generateTable, h]

theorem sameView_exec_derive {s t : State} (h : Indistinguishable s t) :
    SameView (exec .derive s) (exec .derive t) := by
  cases hf : s.fault with
  | true =>
    rw [exec_halted hf, exec_halted (h.fault ▸ hf)]
    exact .next h
  | false =>
    obtain ⟨sbox, isbox, hs, hsbox, hisbox, -, -⟩ := exec_derive_ready hf
    obtain ⟨sbox', isbox', ht, hsbox', hisbox', -, -⟩ := exec_derive_ready (h.fault ▸ hf)
    rw [hs, ht]
    refine .next { h with sbv := rfl, p := rfl, q := rfl, arrays := fun _ src i => ?_ }
    rw [memRead_printed hsbox hisbox, memRead_printed hsbox' hisbox']

theorem sameView_exec {s t : State} (h : Indistinguishable s t) (i : Instr) :
    SameView (exec i s) (exec i t) := by
  cases i with
  | gfadd a b => exact sameView_whenReady h fun _ => .next (indistinguishable_setRes h _)
  | gfmul a b => exact sameView_whenReady h fun _ => .next (indistinguishable_setRes h _)
  | derive => exact sameView_exec_derive h
  | gentbl src m =>
    refine sameView_whenReady h fun _ => sameView_whenSboxValid h fun hv => ?_
    rw [generateTable_eq_of_memRead_eq (h.arrays hv src)]
    exact .next (indistinguishable_emitAll h _)
  | rdsbox src idx =>
    refine sameView_whenReady h fun _ => sameView_whenSboxValid h fun hv => ?_
    rw [h.arrays hv src idx]
    exact .next (indistinguishable_setRes h _)
  | tword x m => exact sameView_whenReady h fun _ => .next (indistinguishable_emitAll h _)

theorem sameView_presentWord {s t : State} (h : Indistinguishable s t) (cw : CommandWord) :
    SameView (presentWord cw s) (presentWord cw t) := by
  cases hd : decode cw with
  | legal i =>
    rw [presentWord_legal hd, presentWord_legal hd]
    exact sameView_exec h i
  | illegal why =>
    rw [presentWord_illegal hd, presentWord_illegal hd]
    exact sameView_whenReady h fun _ => .next (indistinguishable_raiseFault h _)

theorem sameView_interruptWord {s t : State} (h : Indistinguishable s t) (cw : CommandWord) (n : Nat) :
    SameView (interruptWord cw n s) (interruptWord cw n t) := by
  have hw := sameView_presentWord h cw
  generalize hs : presentWord cw s = r, ht : presentWord cw t = r' at hw
  cases hw with
  | @next u v huv =>
    have hwords : wordsOf s u = wordsOf t v := by rw [wordsOf, wordsOf, h.out, huv.out]
    rw [interruptWord_of_presentWord hs, interruptWord_of_presentWord ht, hwords]
    exact .next (indistinguishable_abandonCommand h _)

theorem sameView_serve {s t : State} (h : Indistinguishable s t) (e : HostEvent) :
    SameView (serve e s) (serve e t) := by
  cases e with
  | command cw => exact sameView_presentWord h cw
  | reset => exact .next (indistinguishable_resetEvent h)
  | resetDuring cw n => exact sameView_interruptWord h cw n
  | powerCycle => exact .next (indistinguishable_powerOnReset h)

theorem sameView_step {s t : State} (h : Indistinguishable s t) : SameView (step s) (step t) := by
  rw [step, step, takeStep, takeStep, ← h.host]
  cases s.host with
  | nil => exact .next h
  | cons e rest => exact sameView_serve (indistinguishable_takeInput h rest) e

/-- Settles O55: each part of a step answers two indistinguishable states alike. -/
theorem unspecifiedContentsAreUnobservable : Obligations.UnspecifiedContentsAreUnobservable := by
  intro s t s' h hs
  have hstep := sameView_step h
  rw [hs] at hstep
  generalize ht : step t = r at hstep
  cases hstep with
  | next h' => exact ⟨_, rfl, h'⟩

end Sys2Proof.Proofs
end

section
/-!
PROOFS. What commands and resets write, and STATUS (O44, O49, O56 to O59).
-/

namespace Sys2Proof.Proofs

open Sys2Proof.Machine Sys2Proof.Laws

/-! ## OUT (O56) -/

theorem exec_out_of_not_emits {i : Instr} {s t : State} (h : exec i s = .next t)
    (hi : emits i = false) : t.out = s.out := by
  cases exec_effect h with
  | emitted ws hf he => exact nomatch hi.symm.trans he
  | ignored | notReady | result | derived => rfl

theorem exec_out_prefix {i : Instr} {s t : State} (h : exec i s = .next t) : s.out <+: t.out := by
  cases exec_effect h with
  | emitted ws => exact List.prefix_append s.out ws
  | ignored | notReady | result | derived => exact List.prefix_refl s.out

theorem presentWord_out_prefix {cw : CommandWord} {s t : State} (h : presentWord cw s = .next t) :
    s.out <+: t.out := by
  obtain ⟨i, -, hi⟩ | ⟨-, rfl⟩ | ⟨-, rfl⟩ := presentWord_cases h
  · exact exec_out_prefix hi
  · exact List.prefix_refl s.out
  · exact List.prefix_refl _

theorem step_out_prefix {s t : State} (h : step s = .next t)
    (hpower : ∀ rest, s.host ≠ .powerCycle :: rest) : s.out <+: t.out := by
  obtain ⟨-, he⟩ | ⟨cw, rest, -, he⟩ | ⟨rest, -, he⟩ | ⟨cw, n, rest, -, he⟩ | ⟨rest, hhost, -⟩ :=
    step_cases s
  · cases he.symm.trans h
    exact List.prefix_refl _
  · exact presentWord_out_prefix (s := takeInput rest s) (he.symm.trans h)
  · cases he.symm.trans h
    exact List.prefix_refl s.out
  · obtain ⟨ws, rfl⟩ := interruptWord_eq_abandonCommand (he.symm.trans h)
    exact List.prefix_append s.out ws
  · exact absurd hhost (hpower rest)

/-- Settles O56: words only enter OUT by `emitAll` and at an abandoned command, both at its end. -/
theorem outOnlyGrowsAtItsEnd : Obligations.OutOnlyGrowsAtItsEnd :=
  ⟨fun _ _ _ => exec_out_of_not_emits, fun _ _ _ => exec_out_prefix, fun _ _ => step_out_prefix,
    resetEvent_out, rfl⟩

/-! ## Write sets (O57) -/

/-- A command that neither reads an array nor emits, other than DERIVE, writes RES alone. -/
theorem exec_writes_res {i : Instr} {s t : State} (h : exec i s = .next t) (hi : i ≠ .derive)
    (hn : needsSbox i = false) (he : emits i = false) : t = { s with res := t.res } := by
  cases exec_effect h with
  | ignored | result => rfl
  | notReady _ _ hn' => exact nomatch hn.symm.trans hn'
  | emitted _ _ he' => exact nomatch he.symm.trans he'
  | derived => exact absurd rfl hi

theorem exec_derive_writes {s t : State} (h : exec .derive s = .next t) :
    t = { s with sbox := t.sbox, isbox := t.isbox, sbv := t.sbv, p := t.p, q := t.q,
                 fault := t.fault, fcause := t.fcause } := by
  cases exec_effect h with
  | ignored | notReady | derived => rfl
  | result _ _ hr => exact nomatch hr
  | emitted _ _ he => exact nomatch he

theorem exec_rdsbox_writes {src : Source} {idx : Byte} {s t : State}
    (h : exec (.rdsbox src idx) s = .next t) :
    t = { s with res := t.res, fault := t.fault, fcause := t.fcause } ∧
    (t.fault = true → t.res = s.res) := by
  cases exec_effect h with
  | ignored | notReady => exact ⟨rfl, fun _ => rfl⟩
  | result v hf => exact ⟨rfl, fun ht => nomatch hf.symm.trans ht⟩
  | emitted _ _ he => exact nomatch he

theorem exec_gentbl_writes {src : Source} {m : MulVec} {s t : State}
    (h : exec (.gentbl src m) s = .next t) :
    t = { s with fault := t.fault, fcause := t.fcause, out := t.out } ∧
    (t.fault = true → t.out = s.out) := by
  cases exec_effect h with
  | ignored | notReady => exact ⟨rfl, fun _ => rfl⟩
  | emitted ws hf => exact ⟨rfl, fun ht => nomatch hf.symm.trans ht⟩
  | result _ _ hr => exact nomatch hr

theorem exec_tword_writes {x : Byte} {m : MulVec} {s t : State}
    (h : exec (.tword x m) s = .next t) : t = { s with out := t.out } := by
  cases exec_effect h with
  | ignored | emitted => rfl
  | notReady _ _ hn => exact nomatch hn
  | result _ _ hr => exact nomatch hr

/-- Settles O57: each command answers one of its own effects. -/
theorem commandsWriteOnlyTheirSets : Obligations.CommandsWriteOnlyTheirSets := by
  refine ⟨fun a b s t h => ?_, fun _ _ => exec_derive_writes, fun _ _ _ _ => exec_rdsbox_writes,
    fun _ _ _ _ => exec_gentbl_writes, fun _ _ _ _ => exec_tword_writes⟩
  obtain h | h := h
  · exact exec_writes_res h nofun rfl rfl
  · exact exec_writes_res h nofun rfl rfl

/-! ## RES (O58) -/

theorem exec_res_of_not_givesResult {i : Instr} {s t : State} (h : exec i s = .next t)
    (hi : givesResult i = false) : t.res = s.res := by
  cases exec_effect h with
  | result _ _ hr => exact nomatch hi.symm.trans hr
  | ignored | notReady | emitted | derived => rfl

theorem exec_res_of_fault {i : Instr} {s t : State} (h : exec i s = .next t)
    (ht : t.fault = true) : t.res = s.res := by
  cases exec_effect h with
  | result _ hf => exact nomatch hf.symm.trans ht
  | ignored | notReady | emitted | derived => rfl

theorem presentWord_res_of_fault {cw : CommandWord} {s t : State} (h : presentWord cw s = .next t)
    (ht : t.fault = true) : t.res = s.res := by
  obtain ⟨i, -, hi⟩ | ⟨-, rfl⟩ | ⟨-, rfl⟩ := presentWord_cases h
  · exact exec_res_of_fault hi ht
  · rfl
  · rfl

theorem exec_rdsbox_valid {s : State} (hf : s.fault = false) (hv : s.sbv = true) (src : Source)
    (idx : Byte) : exec (.rdsbox src idx) s = .next (setRes (memRead src idx s) s) :=
  (whenReady_ready hf _).trans (whenSboxValid_valid hv _)

/-- Settles O58: a command that gives a result writes it only where it completes without fault. -/
theorem resHoldsTheLastResult : Obligations.ResHoldsTheLastResult :=
  ⟨fun _ _ _ => exec_res_of_not_givesResult, fun _ _ _ => presentWord_res_of_fault,
    fun _ _ _ hf => ⟨whenReady_ready hf _, whenReady_ready hf _⟩,
    fun src idx _ hf hv => exec_rdsbox_valid hf hv src idx⟩

/-! ## SBV (O59) -/

theorem exec_sbv_of_ne_derive {i : Instr} {s t : State} (h : exec i s = .next t)
    (hi : i ≠ .derive) : t.sbv = s.sbv := by
  cases exec_effect h with
  | derived => exact absurd rfl hi
  | ignored | notReady | result | emitted => rfl

theorem presentWord_sbv_of_ne_derive {cw : CommandWord} {s t : State}
    (h : presentWord cw s = .next t) (hd : decode cw ≠ .legal .derive) : t.sbv = s.sbv := by
  obtain ⟨i, hi, he⟩ | ⟨-, rfl⟩ | ⟨-, rfl⟩ := presentWord_cases h
  · exact exec_sbv_of_ne_derive he fun hid => hd (hid ▸ hi)
  · rfl
  · rfl

/-- Settles O59: DERIVE alone touches SBV, and its walk returns. -/
theorem onlyDeriveSetsSbv : Obligations.OnlyDeriveSetsSbv := by
  refine ⟨fun _ _ _ => exec_sbv_of_ne_derive, fun _ _ _ => presentWord_sbv_of_ne_derive,
    fun s hf => ?_, resetEvent_sbv⟩
  obtain ⟨_, _, h, -⟩ := exec_derive_ready hf
  exact ⟨_, h, rfl⟩

/-! ## Reset values and STATUS (O44, O49) -/

theorem statusBits_fields : ∀ (c : BitVec 2) (v f : Bool),
    (0#4 ++ c ++ BitVec.ofBool v ++ BitVec.ofBool f).getLsbD 0 = f ∧
    (0#4 ++ c ++ BitVec.ofBool v ++ BitVec.ofBool f).getLsbD 1 = v ∧
    (0#4 ++ c ++ BitVec.ofBool v ++ BitVec.ofBool f).extractLsb' 2 2 = c ∧
    (0#4 ++ c ++ BitVec.ofBool v ++ BitVec.ofBool f).extractLsb' 4 4 = 0#4 := by decide

theorem status_eq {s : State} {c : Cause} {v f : Bool} (hc : s.fcause = c) (hv : s.sbv = v)
    (hf : s.fault = f) : status s = 0#4 ++ c.code ++ BitVec.ofBool v ++ BitVec.ofBool f := by
  rw [status, hc, hv, hf]

theorem status_resetEvent (s : State) : status (resetEvent s) = 0x00#8 :=
  status_eq (resetEvent_fcause s) (resetEvent_sbv s) (resetEvent_fault s)

/-- Settles O44: the values stand in the definitions of the reset event and of the reset state. -/
theorem resetStateHasStatedValues : Obligations.ResetStateHasStatedValues :=
  ⟨fun s => ⟨resetEvent_sbv s, resetEvent_p s, resetEvent_q s, resetEvent_res s, resetEvent_fault s,
      resetEvent_fcause s, status_resetEvent s, resetEvent_out s, resetEvent_sbox s, resetEvent_isbox s⟩,
    rfl, rfl, rfl, rfl, rfl, rfl, rfl, rfl⟩

theorem fault_of_fcause {s : State} {c : Cause} (hflag : s.fault = false ↔ s.fcause = .none)
    (hc : s.fcause = c) (hne : c ≠ .none) : s.fault = true :=
  Bool.eq_true_of_not_eq_false fun hf => hne (hc.symm.trans (hflag.mp hf))

/-- STATUS by cause, where the flags agree (R19). -/
theorem status_of_flagsAgree {s : State} (h : FaultFlagsAgree s) :
    (s.fcause = .none → status s = if s.sbv then 0x02#8 else 0x00#8) ∧
    (s.fcause = .gfInconsistency → status s = 0x05#8) ∧
    (s.fcause = .illegalCommand → status s = if s.sbv then 0x0B#8 else 0x09#8) ∧
    (s.fcause = .sboxNotReady → status s = 0x0D#8) := by
  obtain ⟨hflag, hinconsistent, hnotReady⟩ := h
  refine ⟨fun hc => ?_, fun hc => ?_, fun hc => ?_, fun hc => ?_⟩
  · rw [status_eq hc rfl (hflag.mpr hc)]
    cases s.sbv <;> rfl
  · exact status_eq hc (hinconsistent hc) (fault_of_fcause hflag hc nofun)
  · rw [status_eq hc rfl (fault_of_fcause hflag hc nofun)]
    cases s.sbv <;> rfl
  · exact status_eq hc (hnotReady hc) (fault_of_fcause hflag hc nofun)

/-- Settles O49: the fields are those of the concatenation, and the flags' agreement fixes FAULT, and SBV
beside causes 1 and 3. -/
theorem statusFieldsAndValues : Obligations.StatusFieldsAndValues :=
  ⟨fun _ => statusBits_fields _ _ _, fun _ => status_of_flagsAgree, rfl, rfl, rfl, rfl⟩

end Sys2Proof.Proofs
end

section
/-!
PROOFS. The packing of four bytes into a word, and its four slices (O23; R31).
-/

namespace Sys2Proof.Proofs

open Sys2Proof.Machine

/-- R31's shifted sum: the library's rule for four appended vectors, at widths 8 and 32. -/
theorem packBe_eq_shifted_or (b0 b1 b2 b3 : Byte) :
    packBe b0 b1 b2 b3 = b0.setWidth 32 <<< 24 ||| b1.setWidth 32 <<< 16 |||
      b2.setWidth 32 <<< 8 ||| b3.setWidth 32 :=
  calc packBe b0 b1 b2 b3
    _ = (b0 ++ b1 ++ b2 ++ b3).setWidth 32 := (BitVec.setWidth_eq _).symm
    _ = _ := BitVec.setWidth_append_append_append_eq_shiftLeft_setWidth_or

/-- The packing without its last byte, eight bits further down. -/
theorem extractLsb'_packBe_of_le {start : Nat} (h : 8 ≤ start) (len : Nat) (b0 b1 b2 b3 : Byte) :
    (packBe b0 b1 b2 b3).extractLsb' start len = (b0 ++ b1 ++ b2).extractLsb' (start - 8) len :=
  BitVec.extractLsb'_append_eq_of_le h

@[simp] theorem extractLsb'_packBe_byte3 (b0 b1 b2 b3 : Byte) :
    (packBe b0 b1 b2 b3).extractLsb' 0 8 = b3 :=
  BitVec.extractLsb'_append_eq_right

@[simp] theorem extractLsb'_packBe_byte2 (b0 b1 b2 b3 : Byte) :
    (packBe b0 b1 b2 b3).extractLsb' 8 8 = b2 :=
  (extractLsb'_packBe_of_le (by decide) ..).trans BitVec.extractLsb'_append_eq_right

@[simp] theorem extractLsb'_packBe_byte1 (b0 b1 b2 b3 : Byte) :
    (packBe b0 b1 b2 b3).extractLsb' 16 8 = b1 :=
  calc (packBe b0 b1 b2 b3).extractLsb' 16 8
    _ = (b0 ++ b1 ++ b2).extractLsb' 8 8 := extractLsb'_packBe_of_le (by decide) ..
    _ = (b0 ++ b1).extractLsb' 0 8 := BitVec.extractLsb'_append_eq_of_le (by decide)
    _ = b1 := BitVec.extractLsb'_append_eq_right

@[simp] theorem extractLsb'_packBe_byte0 (b0 b1 b2 b3 : Byte) :
    (packBe b0 b1 b2 b3).extractLsb' 24 8 = b0 :=
  calc (packBe b0 b1 b2 b3).extractLsb' 24 8
    _ = (b0 ++ b1 ++ b2).extractLsb' 16 8 := extractLsb'_packBe_of_le (by decide) ..
    _ = (b0 ++ b1).extractLsb' 8 8 := BitVec.extractLsb'_append_eq_of_le (by decide)
    _ = b0 := BitVec.extractLsb'_append_eq_left

/-- Settles O23: the packing is an append, so each slice is one of its parts. -/
theorem packingIsBigEndian : Obligations.PackingIsBigEndian :=
  ⟨packBe_eq_shifted_or,
    fun b0 b1 b2 b3 => ⟨extractLsb'_packBe_byte0 b0 b1 b2 b3, extractLsb'_packBe_byte1 b0 b1 b2 b3,
      extractLsb'_packBe_byte2 b0 b1 b2 b3, extractLsb'_packBe_byte3 b0 b1 b2 b3⟩,
    by decide⟩

end Sys2Proof.Proofs
end

section
/-!
PROOFS. Decoding and encoding (O33; R57). A word is the word of a command exactly when its fields and its
reserved bits are those of the command's format (R47 to R51), and those are what `decode` reads.
-/

namespace Sys2Proof.Proofs

/-! ## A word and its slices -/

theorem extractLsb'_eq_append_iff {w n m start : Nat} {z : BitVec w} {x : BitVec n} {y : BitVec m} :
    z.extractLsb' start (n + m) = x ++ y ↔
      z.extractLsb' (start + m) n = x ∧ z.extractLsb' start m = y := by
  rw [← BitVec.extractLsb'_append_extractLsb'_eq_extractLsb' rfl]
  refine ⟨fun h => ⟨?_, ?_⟩, fun ⟨hx, hy⟩ => by rw [hx, hy]⟩
  · simpa only [BitVec.extractLsb'_append_eq_left] using congrArg (BitVec.extractLsb' m n) h
  · simpa only [BitVec.extractLsb'_append_eq_right] using congrArg (BitVec.extractLsb' 0 m) h

theorem eq_append_iff {n m : Nat} {z : BitVec (n + m)} {x : BitVec n} {y : BitVec m} :
    z = x ++ y ↔ z.extractLsb' m n = x ∧ z.extractLsb' 0 m = y := by
  simpa only [BitVec.extractLsb'_eq_self, Nat.zero_add] using
    extractLsb'_eq_append_iff (z := z) (start := 0) (x := x) (y := y)

/-! ## The operand fields -/

theorem eq_bit_iff {b : BitVec 1} {src : Source} :
    b = src.bit ↔ (if b == 1#1 then Source.si else Source.s) = src := by
  cases src <;> revert b <;> decide

theorem fieldSrc_eq_iff {cw : CommandWord} {src : Source} :
    fieldSrc cw = src ↔ cw.extractLsb' 32 1 = src.bit := by
  rw [fieldSrc, BitVec.getLsbD_eq_extractLsb', eq_bit_iff]

theorem fieldM_eq_iff {cw : CommandWord} {m : MulVec} :
    fieldM cw = m ↔ cw.extractLsb' 0 32 = m.bits := by
  calc fieldM cw = m
    _ ↔ cw.extractLsb' 24 8 = m.m0 ∧ cw.extractLsb' 16 8 = m.m1 ∧ cw.extractLsb' 8 8 = m.m2 ∧
        cw.extractLsb' 0 8 = m.m3 := MulVec.mk.injEq .. ▸ Iff.rfl
    _ ↔ cw.extractLsb' 0 (8 + 8 + 8 + 8) = m.m0 ++ m.m1 ++ m.m2 ++ m.m3 := by
      simp only [extractLsb'_eq_append_iff, and_assoc]

/-! ## The word of a command -/

theorem eq_formatAB_iff {cw : CommandWord} {op a b : Byte} :
    cw = op ++ 0#24 ++ a ++ b ↔
      fieldOp cw = op ∧ cw.extractLsb' 16 24 = 0#24 ∧ fieldA cw = a ∧ fieldB cw = b := by
  calc cw = op ++ 0#24 ++ a ++ b
    _ ↔ cw.extractLsb' 8 (8 + 24 + 8) = op ++ 0#24 ++ a ∧ fieldB cw = b :=
      eq_append_iff (n := 8 + 24 + 8) (m := 8)
    _ ↔ _ := by simp only [extractLsb'_eq_append_iff, and_assoc]; rfl

theorem eq_encode_gfadd_iff {cw : CommandWord} {a b : Byte} :
    cw = encode (.gfadd a b) ↔
      fieldOp cw = 0x01#8 ∧ cw.extractLsb' 16 24 = 0#24 ∧ fieldA cw = a ∧ fieldB cw = b :=
  eq_formatAB_iff

theorem eq_encode_gfmul_iff {cw : CommandWord} {a b : Byte} :
    cw = encode (.gfmul a b) ↔
      fieldOp cw = 0x02#8 ∧ cw.extractLsb' 16 24 = 0#24 ∧ fieldA cw = a ∧ fieldB cw = b :=
  eq_formatAB_iff

theorem eq_encode_derive_iff {cw : CommandWord} :
    cw = encode .derive ↔ fieldOp cw = 0x03#8 ∧ cw.extractLsb' 0 40 = 0#40 :=
  eq_append_iff (n := 8) (m := 40)

theorem eq_encode_gentbl_iff {cw : CommandWord} {src : Source} {m : MulVec} :
    cw = encode (.gentbl src m) ↔
      fieldOp cw = 0x04#8 ∧ cw.extractLsb' 33 7 = 0#7 ∧ fieldSrc cw = src ∧ fieldM cw = m := by
  rw [fieldSrc_eq_iff, fieldM_eq_iff]
  calc cw = encode (.gentbl src m)
    _ ↔ cw.extractLsb' 32 (8 + 7 + 1) = 0x04#8 ++ 0#7 ++ src.bit ∧ cw.extractLsb' 0 32 = m.bits :=
      eq_append_iff (n := 8 + 7 + 1) (m := 32)
    _ ↔ _ := by simp only [extractLsb'_eq_append_iff, and_assoc]; rfl

theorem eq_encode_rdsbox_iff {cw : CommandWord} {src : Source} {idx : Byte} :
    cw = encode (.rdsbox src idx) ↔
      fieldOp cw = 0x05#8 ∧ cw.extractLsb' 33 7 = 0#7 ∧ fieldSrc cw = src ∧
        cw.extractLsb' 8 24 = 0#24 ∧ fieldIdx cw = idx := by
  rw [fieldSrc_eq_iff]
  calc cw = encode (.rdsbox src idx)
    _ ↔ cw.extractLsb' 8 (8 + 7 + 1 + 24) = 0x05#8 ++ 0#7 ++ src.bit ++ 0#24 ∧ fieldIdx cw = idx :=
      eq_append_iff (n := 8 + 7 + 1 + 24) (m := 8)
    _ ↔ _ := by simp only [extractLsb'_eq_append_iff, and_assoc]; rfl

theorem eq_encode_tword_iff {cw : CommandWord} {x : Byte} {m : MulVec} :
    cw = encode (.tword x m) ↔ fieldOp cw = 0x06#8 ∧ fieldS cw = x ∧ fieldM cw = m := by
  rw [fieldM_eq_iff]
  calc cw = encode (.tword x m)
    _ ↔ cw.extractLsb' 32 (8 + 8) = 0x06#8 ++ x ∧ cw.extractLsb' 0 32 = m.bits :=
      eq_append_iff (n := 8 + 8) (m := 32)
    _ ↔ _ := by simp only [extractLsb'_eq_append_iff, and_assoc]; rfl

/-! ## The decoder -/

theorem ifReservedZero_eq_legal_iff {zero : Bool} {i j : Instr} :
    ifReservedZero zero i = .legal j ↔ zero = true ∧ i = j := by
  cases zero <;> simp [ifReservedZero]

/-- The decoder's clauses read the fields of the command's format, reserved bits included. -/
theorem eq_encode_of_decode {cw : CommandWord} {i : Instr} (h : decode cw = .legal i) :
    cw = encode i := by
  unfold decode at h
  split_ifs at h with hop hop hop hop hop hop
  · obtain ⟨hz, rfl⟩ := ifReservedZero_eq_legal_iff.mp h
    exact eq_encode_gfadd_iff.mpr ⟨hop, eq_of_beq hz, rfl, rfl⟩
  · obtain ⟨hz, rfl⟩ := ifReservedZero_eq_legal_iff.mp h
    exact eq_encode_gfmul_iff.mpr ⟨hop, eq_of_beq hz, rfl, rfl⟩
  · obtain ⟨hz, rfl⟩ := ifReservedZero_eq_legal_iff.mp h
    exact eq_encode_derive_iff.mpr ⟨hop, eq_of_beq hz⟩
  · obtain ⟨hz, rfl⟩ := ifReservedZero_eq_legal_iff.mp h
    exact eq_encode_gentbl_iff.mpr ⟨hop, eq_of_beq hz, rfl, rfl⟩
  · obtain ⟨hz, rfl⟩ := ifReservedZero_eq_legal_iff.mp h
    obtain ⟨hhigh, hlow⟩ := Bool.and_eq_true_iff.mp hz
    exact eq_encode_rdsbox_iff.mpr ⟨hop, eq_of_beq hhigh, rfl, eq_of_beq hlow, rfl⟩
  · cases h
    exact eq_encode_tword_iff.mpr ⟨hop, rfl, rfl⟩

theorem decode_of_eq_encode {cw : CommandWord} {i : Instr} (h : cw = encode i) :
    decode cw = .legal i := by
  cases i with
  | gfadd a b =>
    obtain ⟨hop, hz, rfl, rfl⟩ := eq_encode_gfadd_iff.mp h
    simp [decode, ifReservedZero, hop, hz]
  | gfmul a b =>
    obtain ⟨hop, hz, rfl, rfl⟩ := eq_encode_gfmul_iff.mp h
    simp [decode, ifReservedZero, hop, hz]
  | derive =>
    obtain ⟨hop, hz⟩ := eq_encode_derive_iff.mp h
    simp [decode, ifReservedZero, hop, hz]
  | gentbl src m =>
    obtain ⟨hop, hz, rfl, rfl⟩ := eq_encode_gentbl_iff.mp h
    simp [decode, ifReservedZero, hop, hz]
  | rdsbox src idx =>
    obtain ⟨hop, hhigh, rfl, hlow, rfl⟩ := eq_encode_rdsbox_iff.mp h
    simp [decode, ifReservedZero, hop, hhigh, hlow]
  | tword x m =>
    obtain ⟨hop, rfl, rfl⟩ := eq_encode_tword_iff.mp h
    simp [decode, hop]

theorem decode_encode (i : Instr) : decode (encode i) = .legal i := decode_of_eq_encode rfl

theorem decode_total (cw : CommandWord) :
    (∃ i, decode cw = .legal i) ∨ ∃ why, decode cw = .illegal why := by
  cases decode cw with
  | legal i => exact .inl ⟨i, rfl⟩
  | illegal why => exact .inr ⟨why, rfl⟩

/-- Settles O33: a word decodes to a command exactly when it is the word of that command. -/
theorem decodeAndEncodeAreInverse : Obligations.DecodeAndEncodeAreInverse :=
  ⟨fun i _ => decode_encode i, fun _ _ h => (eq_encode_of_decode h).symm, decode_total⟩

end Sys2Proof.Proofs
end

section
/-!
PROOFS. The opcode map (O34; R53, R54) and the fault of an illegal word (O38; R55, R112). A row's mask covers
the opcode and the reserved bits, so a match fixes those slices of the word, and no others.
-/

namespace Sys2Proof.Proofs

open Sys2Proof.Machine Sys2Proof.Laws

/-! ## Matching a row -/

/-- A match fixes each slice that the row's mask covers. -/
theorem extractLsb'_of_match {row : OpcodeRow} {cw : CommandWord}
    (h : cw &&& row.mask = row.pattern) {start len : Nat}
    (hmask : row.mask.extractLsb' start len = BitVec.allOnes len) :
    cw.extractLsb' start len = row.pattern.extractLsb' start len := by
  rw [← h, BitVec.extractLsb'_and, hmask, BitVec.and_allOnes]

theorem fieldOp_of_match {row : OpcodeRow} (hrow : row ∈ opcodeRows) {cw : CommandWord}
    (h : cw &&& row.mask = row.pattern) : fieldOp cw = fieldOp row.pattern :=
  have hmask : ∀ row ∈ opcodeRows, row.mask.extractLsb' 40 8 = BitVec.allOnes 8 := by decide
  extractLsb'_of_match h (hmask row hrow)

theorem row_eq_of_fieldOp_eq : ∀ row ∈ opcodeRows, ∀ other ∈ opcodeRows,
    fieldOp row.pattern = fieldOp other.pattern → row = other := by decide

theorem row_unique {cw : CommandWord} {row other : OpcodeRow} (hrow : row ∈ opcodeRows)
    (hother : other ∈ opcodeRows) (h : cw &&& row.mask = row.pattern)
    (h' : cw &&& other.mask = other.pattern) : row = other :=
  row_eq_of_fieldOp_eq row hrow other hother
    ((fieldOp_of_match hrow h).symm.trans (fieldOp_of_match hother h'))

/-! ## The rows and the commands -/

theorem row_mem_opcodeRows (i : Instr) : i.row ∈ opcodeRows := by
  cases i <;> simp [Instr.row, opcodeRows]

theorem encode_matches_row (i : Instr) : encode i &&& i.row.mask = i.row.pattern := by
  have h : EncodedRow.Statement i := by
    cases i with
    | gfadd a b => exact EncodedRow.gfadd a b
    | gfmul a b => exact EncodedRow.gfmul a b
    | derive => exact EncodedRow.derive
    | gentbl src m => exact EncodedRow.gentbl src m
    | rdsbox src idx => exact EncodedRow.rdsbox src idx
    | tword x m => exact EncodedRow.tword x m
  exact eq_of_beq h

/-- A word that matches a row is the word of the command with the operands it carries. -/
theorem exists_eq_encode_of_match {row : OpcodeRow} (hrow : row ∈ opcodeRows) {cw : CommandWord}
    (h : cw &&& row.mask = row.pattern) : ∃ i, cw = encode i := by
  have hop := fieldOp_of_match hrow h
  simp only [opcodeRows, List.mem_cons, List.not_mem_nil, or_false] at hrow
  obtain rfl | rfl | rfl | rfl | rfl | rfl := hrow
  · exact ⟨.gfadd _ _, eq_encode_gfadd_iff.mpr
      ⟨hop, extractLsb'_of_match h (by decide), rfl, rfl⟩⟩
  · exact ⟨.gfmul _ _, eq_encode_gfmul_iff.mpr
      ⟨hop, extractLsb'_of_match h (by decide), rfl, rfl⟩⟩
  · exact ⟨.derive, eq_encode_derive_iff.mpr ⟨hop, extractLsb'_of_match h (by decide)⟩⟩
  · exact ⟨.gentbl _ _, eq_encode_gentbl_iff.mpr
      ⟨hop, extractLsb'_of_match h (by decide), rfl, rfl⟩⟩
  · exact ⟨.rdsbox _ _, eq_encode_rdsbox_iff.mpr
      ⟨hop, extractLsb'_of_match h (by decide), rfl, extractLsb'_of_match h (by decide), rfl⟩⟩
  · exact ⟨.tword _ _, eq_encode_tword_iff.mpr ⟨hop, rfl, rfl⟩⟩

theorem matches_row_of_decode {cw : CommandWord} {i : Instr} (h : decode cw = .legal i) :
    cw &&& i.row.mask = i.row.pattern :=
  eq_encode_of_decode h ▸ encode_matches_row i

theorem exists_decode_iff_match (cw : CommandWord) :
    (∃ i, decode cw = .legal i) ↔ ∃ row ∈ opcodeRows, cw &&& row.mask = row.pattern := by
  constructor
  · rintro ⟨i, h⟩
    exact ⟨i.row, row_mem_opcodeRows i, matches_row_of_decode h⟩
  · rintro ⟨row, hrow, h⟩
    obtain ⟨i, hi⟩ := exists_eq_encode_of_match hrow h
    exact ⟨i, decode_of_eq_encode hi⟩

/-! ## Unassigned opcodes -/

theorem decode_reservedOpcode {cw : CommandWord} (h : fieldOp cw = 0x00#8 ∨ 0x07#8 ≤ fieldOp cw) :
    decode cw = .illegal .reservedOpcode := by
  have hne : ∀ op : Byte, op = 0x00#8 ∨ 0x07#8 ≤ op →
      op ≠ 0x01#8 ∧ op ≠ 0x02#8 ∧ op ≠ 0x03#8 ∧ op ≠ 0x04#8 ∧ op ≠ 0x05#8 ∧ op ≠ 0x06#8 := by decide
  obtain ⟨h1, h2, h3, h4, h5, h6⟩ := hne _ h
  rw [decode, if_neg h1, if_neg h2, if_neg h3, if_neg h4, if_neg h5, if_neg h6]

/-- Settles O34: a match fixes what the decoder tests, and a command's word matches its own row. -/
theorem decodeFollowsOpcodeMap : Obligations.DecodeFollowsOpcodeMap :=
  ⟨exists_decode_iff_match, fun _ _ hrow _ hother => row_unique hrow hother,
    fun _ _ => matches_row_of_decode, fun _ => decode_reservedOpcode⟩

/-! ## The fault of an illegal word -/

theorem decode_illegal_iff_no_match {cw : CommandWord} :
    (∃ why, decode cw = .illegal why) ↔ ∀ row ∈ opcodeRows, cw &&& row.mask ≠ row.pattern := by
  have h := exists_decode_iff_match cw
  constructor
  · rintro ⟨why, hw⟩ row hrow hm
    obtain ⟨i, hi⟩ := h.mpr ⟨row, hrow, hm⟩
    exact nomatch hw.symm.trans hi
  · intro hno
    refine (decode_total cw).resolve_left fun hl => ?_
    obtain ⟨row, hrow, hm⟩ := h.mp hl
    exact hno row hrow hm

theorem step_illegal {cw : CommandWord} {why : Illegal} {rest : List HostEvent} {s : State}
    (hhost : s.host = .command cw :: rest) (hf : s.fault = false) (hd : decode cw = .illegal why) :
    step s = .next { s with host := rest, fault := true, fcause := .illegalCommand } := by
  rw [step_command hhost, presentWord_illegal hd]
  exact whenReady_ready (s := takeInput rest s) hf _

/-- Settles O38: matching no row is being illegal, and a step on such a word only enters the fault state. -/
theorem illegalWordFaults : Obligations.IllegalWordFaults := by
  refine ⟨fun _ _ _ _ => step_illegal, fun cw rest s hhost hf hno => ?_,
    fun cw h => decode_illegal_iff_no_match.mp ⟨_, decode_reservedOpcode h⟩,
    decode_reservedOpcode (.inl rfl)⟩
  obtain ⟨why, hd⟩ := decode_illegal_iff_no_match.mpr hno
  exact step_illegal hhost hf hd

end Sys2Proof.Proofs
end

section
/-!
PROOFS. Words and lines of the spec's examples (O31, O35, O36; R58 to R60, R104), by evaluation.
-/

namespace Sys2Proof.Proofs

open Sys2Proof.Machine

/-- Settles O31: each name is looked up, expanded and encoded. -/
theorem namedTablesHaveTheirWords : Obligations.NamedTablesHaveTheirWords :=
  ⟨by decide, rfl, by decide⟩

/-- Settles O35: the legal words are commands' words, and the others are refused by their bits. -/
theorem exampleWordsDecode : Obligations.ExampleWordsDecode :=
  ⟨⟨decode_encode (.gfmul 0x57#8 0x83#8), decode_encode .derive,
      decode_encode (.gentbl .s ⟨2, 1, 1, 3⟩), decode_encode (.gentbl .si ⟨14, 9, 13, 11⟩),
      decode_encode (.rdsbox .s 0x53#8), decode_encode (.rdsbox .si 0xED#8),
      decode_encode (.tword 0x63#8 ⟨2, 1, 1, 3⟩), decode_encode (.gfadd 0x57#8 0x83#8)⟩,
    by decide⟩

/-- Settles O36: each line is cut into tokens and read. -/
theorem assemblerExamples : Obligations.AssemblerExamples := by
  unfold Obligations.AssemblerExamples
  decide

end Sys2Proof.Proofs
end

section
/-!
PROOFS. The loop of `multiply` (O4; R66, R67, R76). `xtime` commutes with xor, and one turn of the loop adds
bit 0 of b times a to r, whether or not the loop would stop there. So the loop is linear in each operand, and
unrolled it is the closed form.
-/

namespace Sys2Proof.Proofs

open Sys2Proof.Machine

/-! ## One bit times a byte -/

/-- What the loop adds in one turn: `a` if the bit is 1, else nothing (R67). -/
def bitTimes (c : Bool) (a : Byte) : Byte := if c then a else 0x00#8

@[simp] theorem bitTimes_true (a : Byte) : bitTimes true a = a := rfl

@[simp] theorem bitTimes_false (a : Byte) : bitTimes false a = 0x00#8 := rfl

@[simp] theorem bitTimes_zero (c : Bool) : bitTimes c 0x00#8 = 0x00#8 := by
  cases c <;> rfl

theorem bitTimes_xor_byte (c : Bool) (a b : Byte) :
    bitTimes c (a ^^^ b) = bitTimes c a ^^^ bitTimes c b := by
  cases c <;> simp

theorem bitTimes_xor_bit (c d : Bool) (a : Byte) :
    bitTimes (c ^^ d) a = bitTimes c a ^^^ bitTimes d a := by
  cases c <;> cases d <;> simp

theorem getLsbD_bitTimes (c : Bool) (a : Byte) (i : Nat) :
    (bitTimes c a).getLsbD i = (c && a.getLsbD i) := by
  cases c <;> simp

/-! ## xtime -/

theorem xtime_eq (a : Byte) : xtime a = a <<< 1 ^^^ bitTimes (a.getLsbD 7) reductionLow := by
  rw [xtime]
  cases a.getLsbD 7 <;> simp

@[simp] theorem xtime_zero : xtime 0x00#8 = 0x00#8 := rfl

theorem xtime_xor (a b : Byte) : xtime (a ^^^ b) = xtime a ^^^ xtime b := by
  simp only [xtime_eq, BitVec.shiftLeft_xor_distrib, BitVec.getLsbD_xor, bitTimes_xor_bit]
  ac_rfl

theorem xtime_bitTimes (c : Bool) (a : Byte) : xtime (bitTimes c a) = bitTimes c (xtime a) := by
  cases c <;> simp

/-! ## Shifting right by one -/

theorem toNat_shiftRight_one (b : Byte) : (b >>> 1).toNat = b.toNat / 2 := rfl

theorem shiftRight_one_lt {n : Nat} {b : Byte} (h : b.toNat < 2 ^ (n + 1)) :
    (b >>> 1).toNat < 2 ^ n := by
  rw [toNat_shiftRight_one]
  omega

theorem shiftRight_one_eq_zero_iff {b : Byte} : b >>> 1 = 0x00#8 ↔ b.toNat < 2 := by
  rw [← BitVec.toNat_inj, toNat_shiftRight_one]
  exact Nat.div_eq_zero_iff_lt Nat.two_pos

theorem eq_zero_of_toNat_lt {b : Byte} (h : b.toNat < 2 ^ 0) : b = 0x00#8 :=
  BitVec.eq_of_toNat_eq (Nat.lt_one_iff.mp h)

/-- A byte is its upper seven bits shifted back, which needs no reduction, and its bit 0. -/
theorem xtime_shiftRight_one_xor (a : Byte) :
    xtime (a >>> 1) ^^^ bitTimes (a.getLsbD 0) 0x01#8 = a := by
  have hbit : (a >>> 1).getLsbD 7 = false := by simp
  rw [xtime_eq, hbit, bitTimes_false, BitVec.xor_zero]
  refine BitVec.eq_of_getLsbD_eq fun i hi => ?_
  rw [BitVec.getLsbD_xor, getLsbD_bitTimes]
  cases i with
  | zero => simp
  | succ i => simp [hi, Nat.add_comm 1 i]

/-- Every byte comes from 0x00 by `xtime` and by adding 0x01, bit by bit from its highest bit. -/
theorem byte_induction {P : Byte → Prop} (zero : P 0x00#8) (xtime : ∀ a, P a → P (xtime a))
    (add_one : ∀ a, P a → P (a ^^^ 0x01#8)) (a : Byte) : P a := by
  have bounded (n : Nat) : ∀ a : Byte, a.toNat < 2 ^ n → P a := by
    induction n with
    | zero => exact fun a h => eq_zero_of_toNat_lt h ▸ zero
    | succ n ih =>
      intro a h
      have hshifted := xtime _ (ih _ (shiftRight_one_lt h))
      rw [← xtime_shiftRight_one_xor a]
      cases a.getLsbD 0
      · simpa using hshifted
      · exact add_one _ hshifted
  exact bounded 8 a a.isLt

/-! ## The loop -/

theorem multiplyLoop_of_zero {a b : Byte} (h : a = 0x00#8 ∨ b = 0x00#8) (n : Nat) (r : Byte) :
    multiplyLoop n a b r = r := by
  cases n with
  | zero => rfl
  | succ n => exact if_pos h

/-- One turn of the loop. Where the loop stops instead, the turn adds nothing and it stops next time. -/
theorem multiplyLoop_succ (n : Nat) (a b r : Byte) :
    multiplyLoop (n + 1) a b r =
      multiplyLoop n (xtime a) (b >>> 1) (r ^^^ bitTimes (b.getLsbD 0) a) := by
  by_cases h : a = 0x00#8 ∨ b = 0x00#8
  · have hnext : xtime a = 0x00#8 ∨ b >>> 1 = 0x00#8 :=
      h.imp (congrArg xtime) (congrArg fun x : Byte => x >>> 1)
    have hbit : bitTimes (b.getLsbD 0) a = 0x00#8 := by
      obtain rfl | rfl := h
      · exact bitTimes_zero _
      · exact bitTimes_false a
    rw [multiplyLoop_of_zero h, multiplyLoop_of_zero hnext, hbit, BitVec.xor_zero]
  · rw [multiplyLoop, if_neg h]
    cases b.getLsbD 0 <;> simp [add]

theorem multiplyLoop_xor_left (n : Nat) (a a' b r r' : Byte) :
    multiplyLoop n (a ^^^ a') b (r ^^^ r') = multiplyLoop n a b r ^^^ multiplyLoop n a' b r' := by
  induction n generalizing a a' b r r' with
  | zero => rfl
  | succ n ih =>
    simp only [multiplyLoop_succ, ← ih, xtime_xor, bitTimes_xor_byte]
    congr 1
    ac_rfl

theorem multiplyLoop_xor_right (n : Nat) (a b b' r r' : Byte) :
    multiplyLoop n a (b ^^^ b') (r ^^^ r') = multiplyLoop n a b r ^^^ multiplyLoop n a b' r' := by
  induction n generalizing a b b' r r' with
  | zero => rfl
  | succ n ih =>
    simp only [multiplyLoop_succ, ← ih, BitVec.ushiftRight_xor_distrib, BitVec.getLsbD_xor,
      bitTimes_xor_bit]
    congr 1
    ac_rfl

theorem multiplyLoop_xtime_left (n : Nat) (a b r : Byte) :
    multiplyLoop n (xtime a) b (xtime r) = xtime (multiplyLoop n a b r) := by
  induction n generalizing a b r with
  | zero => rfl
  | succ n ih => simp only [multiplyLoop_succ, ← ih, xtime_xor, xtime_bitTimes]

/-- A bound of one iteration for each bit of b cuts nothing off (R77). -/
theorem multiplyLoop_add_bound {k : Nat} {b : Byte} (hb : b.toNat < 2 ^ k) (n : Nat) (a r : Byte) :
    multiplyLoop (k + n) a b r = multiplyLoop k a b r := by
  induction k generalizing a b r with
  | zero => rw [multiplyLoop_of_zero (.inr (eq_zero_of_toNat_lt hb)), multiplyLoop]
  | succ k ih =>
    rw [Nat.add_right_comm, multiplyLoop_succ, multiplyLoop_succ, ih (shiftRight_one_lt hb)]

theorem multiplyLoop_eq_foldl (n : Nat) (a b r : Byte) :
    multiplyLoop n a b r =
      (List.range n).foldl (fun r i => if b.getLsbD i then r ^^^ xtime^[i] a else r) r := by
  induction n generalizing a b r with
  | zero => rfl
  | succ n ih =>
    rw [multiplyLoop_succ, ih, List.range_succ_eq_map, List.foldl_cons, List.foldl_map]
    congr 1
    · funext r i
      simp [Nat.add_comm 1 i]
    · cases b.getLsbD 0 <;> simp

/-- Settles O4: turn i of the loop adds bit i of b times a after i turns of `xtime`. -/
theorem multiplyIsSumOfShiftedCopies : Obligations.MultiplyIsSumOfShiftedCopies :=
  fun a b => multiplyLoop_eq_foldl 8 a b 0x00#8

end Sys2Proof.Proofs
end

section
/-!
PROOFS. The laws of the field (O3, O5 to O8, O11; R66, R71 to R73, R77, R78). Both operands of `multiply`
distribute over xor by the loop's linearity; the other laws follow by `byte_induction` on the first operand.
-/

namespace Sys2Proof.Proofs

open Sys2Proof.Machine

/-! ## add (O11) -/

/-- Settles O11: `add` is the exclusive or. -/
theorem addIsAnElementaryGroup : Obligations.AddIsAnElementaryGroup := fun a b c =>
  ⟨BitVec.xor_comm a b, BitVec.xor_assoc a b c, BitVec.xor_zero, BitVec.xor_self⟩

/-! ## Zero, one and distribution (O7, O8) -/

@[simp] theorem multiply_zero_left (b : Byte) : multiply 0x00#8 b = 0x00#8 :=
  multiplyLoop_of_zero (.inl rfl) 8 0x00#8

@[simp] theorem multiply_zero_right (a : Byte) : multiply a 0x00#8 = 0x00#8 :=
  multiplyLoop_of_zero (.inr rfl) 8 0x00#8

@[simp] theorem multiply_one_left : ∀ b : Byte, multiply 0x01#8 b = b := by decide +kernel

@[simp] theorem multiply_one_right (a : Byte) : multiply a 0x01#8 = a :=
  calc multiply a 0x01#8
    _ = multiplyLoop 7 (xtime a) 0x00#8 (0x00#8 ^^^ a) := multiplyLoop_succ 7 a 0x01#8 0x00#8
    _ = 0x00#8 ^^^ a := multiplyLoop_of_zero (.inr rfl) ..
    _ = a := BitVec.zero_xor

theorem multiply_xor_left (a b c : Byte) :
    multiply (a ^^^ b) c = multiply a c ^^^ multiply b c :=
  multiplyLoop_xor_left 8 a b c 0x00#8 0x00#8

theorem multiply_xor_right (a b c : Byte) :
    multiply a (b ^^^ c) = multiply a b ^^^ multiply a c :=
  multiplyLoop_xor_right 8 a b c 0x00#8 0x00#8

/-- Settles O7: a zero operand ends the loop at once, and 0x01 takes one turn of it. -/
theorem multiplyByOneAndZero : Obligations.MultiplyByOneAndZero := fun x =>
  ⟨multiply_one_right x, multiply_zero_right x, multiply_one_left x, multiply_zero_left x⟩

/-- Settles O8: the loop is linear in b. -/
theorem multiplyDistributesOverAdd : Obligations.MultiplyDistributesOverAdd := multiply_xor_right

/-! ## Commutativity and associativity (O6) -/

theorem multiply_xtime_left (a b : Byte) : multiply (xtime a) b = xtime (multiply a b) :=
  multiplyLoop_xtime_left 8 a b 0x00#8

theorem multiply_xtime_right (a b : Byte) : multiply a (xtime b) = xtime (multiply a b) := by
  induction a using byte_induction with
  | zero => simp
  | xtime a ih => rw [multiply_xtime_left, multiply_xtime_left, ih]
  | add_one a ih => simp only [multiply_xor_left, multiply_one_left, xtime_xor, ih]

theorem multiply_comm (a b : Byte) : multiply a b = multiply b a := by
  induction a using byte_induction with
  | zero => simp
  | xtime a ih => rw [multiply_xtime_left, multiply_xtime_right, ih]
  | add_one a ih =>
    rw [multiply_xor_left, multiply_xor_right, multiply_one_left, multiply_one_right, ih]

theorem multiply_assoc (a b c : Byte) :
    multiply (multiply a b) c = multiply a (multiply b c) := by
  induction a using byte_induction with
  | zero => simp
  | xtime a ih => simp only [multiply_xtime_left, ih]
  | add_one a ih => simp only [multiply_xor_left, multiply_one_left, ih]

/-- Settles O6: both sides agree at 0x00, and `xtime` and adding 0x01 pass through the products. -/
theorem multiplyCommutesAndAssociates : Obligations.MultiplyCommutesAndAssociates :=
  ⟨multiply_comm, multiply_assoc⟩

/-! ## xtime as a reduction and as a product (O3) -/

theorem setWidth_shiftLeft_one (a : Byte) : (a.setWidth 9 <<< 1).setWidth 8 = a <<< 1 := by
  rw [BitVec.setWidth_shiftLeft_of_le (by decide), BitVec.setWidth_setWidth_of_le a (by decide),
    BitVec.setWidth_eq]

theorem xtime_eq_nineBit (a : Byte) :
    xtime a =
      if a.getLsbD 7 then (((a.setWidth 9) <<< 1) ^^^ 0x1B#9).setWidth 8
      else ((a.setWidth 9) <<< 1).setWidth 8 := by
  rw [BitVec.setWidth_xor, setWidth_shiftLeft_one]
  rfl

/-- The polynomial 0x11B clears bit 8 and is 0x1B below it. -/
theorem xtime_eq_nineBit_of_carry {a : Byte} (ha : a.getLsbD 7 = true) :
    (((a.setWidth 9) <<< 1) ^^^ 0x11B#9).getLsbD 8 = false ∧
    xtime a = (((a.setWidth 9) <<< 1) ^^^ 0x11B#9).setWidth 8 := by
  constructor
  · rw [BitVec.getLsbD_xor, BitVec.getLsbD_shiftLeft, BitVec.getLsbD_setWidth, ha]
    rfl
  · rw [BitVec.setWidth_xor, setWidth_shiftLeft_one, xtime, if_pos ha]
    rfl

theorem xtime_eq_multiply_two (a : Byte) : xtime a = multiply a 0x02#8 :=
  calc xtime a
    _ = xtime (multiply a 0x01#8) := by rw [multiply_one_right]
    _ = multiply a (xtime 0x01#8) := (multiply_xtime_right a 0x01#8).symm

/-- Settles O3: the shift loses bit 8 alone, and 0x02 is `xtime` of 0x01. -/
theorem xtimeReducesByPolynomial : Obligations.XtimeReducesByPolynomial :=
  ⟨xtime_eq_nineBit, fun _ => xtime_eq_nineBit_of_carry, xtime_eq_multiply_two, by decide⟩

/-! ## The iteration count (O5) -/

/-- 0x8D undoes `xtime`. -/
theorem multiply_xtime_inverse (a : Byte) : multiply (xtime a) 0x8D#8 = a :=
  calc multiply (xtime a) 0x8D#8
    _ = multiply a (xtime 0x8D#8) := by rw [multiply_xtime_left, multiply_xtime_right]
    _ = a := multiply_one_right a

theorem xtime_ne_zero {a : Byte} (ha : a ≠ 0x00#8) : xtime a ≠ 0x00#8 := by
  intro h
  have hinv := multiply_xtime_inverse a
  rw [h, multiply_zero_left] at hinv
  exact ha hinv.symm

/-- The loop counts the bits of b up to its highest 1, as a never becomes zero (R77). -/
theorem multiplyIterations_eq {n : Nat} {a b : Byte} (hb : b.toNat < 2 ^ n) :
    multiplyIterations n a b = if a = 0x00#8 ∨ b = 0x00#8 then 0 else Nat.log2 b.toNat + 1 := by
  induction n generalizing a b with
  | zero => rw [multiplyIterations, if_pos (.inr (eq_zero_of_toNat_lt hb))]
  | succ n ih =>
    rw [multiplyIterations]
    split
    · rfl
    next h =>
      have ha := xtime_ne_zero (not_or.mp h).1
      rw [ih (shiftRight_one_lt hb), Nat.log2_def b.toNat]
      simp only [ha, false_or, shiftRight_one_eq_zero_iff, toNat_shiftRight_one]
      by_cases h2 : b.toNat < 2
      · rw [if_pos h2, if_neg (Nat.not_le.mpr h2)]
      · rw [if_neg h2, if_pos (Nat.not_lt.mp h2)]

theorem toNat_lt_two_pow_add (b : Byte) (n : Nat) : b.toNat < 2 ^ (8 + n) :=
  b.isLt.trans_le (Nat.pow_le_pow_right Nat.two_pos (Nat.le_add_right 8 n))

theorem multiplyIterations_le (n : Nat) (a b : Byte) : multiplyIterations (8 + n) a b ≤ 8 := by
  rw [multiplyIterations_eq (toNat_lt_two_pow_add b n)]
  split
  · exact Nat.zero_le 8
  next h =>
    have hb : b.toNat ≠ 0 := fun h0 => h (.inr (BitVec.eq_of_toNat_eq h0))
    exact (Nat.log2_lt hb).mpr b.isLt

/-- Settles O5: b has eight bits and loses one in each turn, and a stays nonzero. -/
theorem multiplyLoopBound : Obligations.MultiplyLoopBound :=
  ⟨fun n a b => multiplyLoop_add_bound b.isLt n a 0x00#8, fun _ => xtime_ne_zero,
    multiplyIterations_le, fun n _ b => multiplyIterations_eq (toNat_lt_two_pow_add b n)⟩

end Sys2Proof.Proofs
end

section
/-!
PROOFS. Powers, orders and inverses (O9, O10; R74, R75). The powers of g are the iterates of multiplication
by g at 0x01, so the order of g is the period of that point. An element of order 255 has 255 different
powers, none of them zero, so every nonzero byte is one; its inverse is the same power of the inverse of g.
-/

namespace Sys2Proof.Proofs

open Sys2Proof.Machine

/-! ## Products equal to 0x01 -/

theorem ne_zero_of_multiply_eq_one {x y : Byte} (h : multiply x y = 0x01#8) : x ≠ 0x00#8 := by
  rintro rfl
  rw [multiply_zero_left] at h
  cases h

theorem inverse_unique {x y z : Byte} (hy : multiply x y = 0x01#8) (hz : multiply x z = 0x01#8) :
    y = z :=
  calc y
    _ = multiply y (multiply x z) := by rw [hz, multiply_one_right]
    _ = multiply (multiply x y) z := by rw [← multiply_assoc, multiply_comm y]
    _ = z := by rw [hy, multiply_one_left]

theorem multiply_multiply_multiply_comm (a b c d : Byte) :
    multiply (multiply a b) (multiply c d) = multiply (multiply a c) (multiply b d) := by
  rw [multiply_assoc, ← multiply_assoc b, multiply_comm b, multiply_assoc c, ← multiply_assoc]

/-- Equal powers of inverses are inverses (R92). -/
theorem multiply_power_power {g h : Byte} (hgh : multiply g h = 0x01#8) (k : Nat) :
    multiply (power g k) (power h k) = 0x01#8 := by
  induction k with
  | zero => exact multiply_one_left 0x01#8
  | succ k ih => rw [power, power, multiply_multiply_multiply_comm, ih, hgh, multiply_one_left]

theorem power_ne_zero {g h : Byte} (hgh : multiply g h = 0x01#8) (k : Nat) : power g k ≠ 0x00#8 :=
  ne_zero_of_multiply_eq_one (multiply_power_power hgh k)

/-- 0xF6 is the inverse of 0x03 (R75). -/
theorem multiply_three_inverse : multiply 0x03#8 0xF6#8 = 0x01#8 := by decide

/-! ## The order of an element -/

theorem power_eq_iterate (g : Byte) (k : Nat) : power g k = (multiply · g)^[k] 0x01#8 := by
  induction k with
  | zero => rfl
  | succ k ih => rw [power, ih, Function.iterate_succ_apply']

/-- The multiplicative order of `g`: the least positive exponent of a power equal to 0x01, or 0 if there
is none (R75). -/
noncomputable def mulOrder (g : Byte) : Nat := Function.minimalPeriod (multiply · g) 0x01#8

theorem power_eq_one_iff {g : Byte} {k : Nat} : power g k = 0x01#8 ↔ mulOrder g ∣ k := by
  rw [power_eq_iterate]
  exact Function.isPeriodicPt_iff_minimalPeriod_dvd

theorem power_mod_mulOrder (g : Byte) (k : Nat) : power g (k % mulOrder g) = power g k := by
  rw [power_eq_iterate, power_eq_iterate]
  exact Function.iterate_mod_minimalPeriod_eq

theorem power_injOn_Iio_mulOrder (g : Byte) : (Set.Iio (mulOrder g)).InjOn (power g) := by
  rw [funext (power_eq_iterate g)]
  exact Function.iterate_injOn_Iio_minimalPeriod

/-- The order is `n` if power `n` is 0x01 and, with `l` covering the proper divisors of `n`, no power in
`l` is. -/
theorem mulOrder_eq {g : Byte} {n : Nat} {l : List Nat} (hn : n ≠ 0)
    (hl : ∀ d ∈ n.divisors, d = n ∨ ∃ m ∈ l, d ∣ m) (hpow : power g n = 0x01#8)
    (hne : ∀ m ∈ l, power g m ≠ 0x01#8) : mulOrder g = n := by
  have hmem : mulOrder g ∈ n.divisors := Nat.mem_divisors.mpr ⟨power_eq_one_iff.mp hpow, hn⟩
  refine (hl _ hmem).resolve_right ?_
  rintro ⟨m, hm, hdvd⟩
  exact hne m hm (power_eq_one_iff.mpr hdvd)

theorem mulOrder_three : mulOrder 0x03#8 = 255 :=
  mulOrder_eq (l := [255 / 3, 255 / 5, 255 / 17]) (by decide) (by decide) power_three_walkLength
    (by decide +kernel)

theorem mulOrder_two : mulOrder 0x02#8 = 51 :=
  mulOrder_eq (l := [51 / 3, 51 / 17]) (by decide) (by decide) (by decide +kernel) (by decide +kernel)

theorem mulOrder_dvd_of_inverse {g h : Byte} (hgh : multiply g h = 0x01#8) :
    mulOrder h ∣ mulOrder g := by
  have hpow := multiply_power_power hgh (mulOrder g)
  rw [power_eq_one_iff.mpr dvd_rfl, multiply_one_left] at hpow
  exact power_eq_one_iff.mp hpow

theorem mulOrder_eq_of_inverse {g h : Byte} (hgh : multiply g h = 0x01#8) :
    mulOrder h = mulOrder g :=
  Nat.dvd_antisymm (mulOrder_dvd_of_inverse hgh)
    (mulOrder_dvd_of_inverse ((multiply_comm h g).trans hgh))

/-! ## Elements of order 255 -/

section

variable {g : Byte} (horder : mulOrder g = 255)
include horder

/-- The exponents 1 to 255, taken mod 255, are 0 to 254. -/
theorem power_injOn_of_mulOrder : (Set.Icc 1 255).InjOn (power g) := by
  rintro i ⟨hi, hi'⟩ j ⟨hj, hj'⟩ hij
  have hmod : i % mulOrder g = j % mulOrder g := by
    apply power_injOn_Iio_mulOrder g (Nat.mod_lt i (by omega)) (Nat.mod_lt j (by omega))
    rw [power_mod_mulOrder, power_mod_mulOrder, hij]
  rw [horder] at hmod
  omega

/-- There are as many exponents as nonzero bytes. -/
theorem exists_power_eq_of_mulOrder (hne : ∀ k, power g k ≠ 0x00#8) {x : Byte} (hx : x ≠ 0x00#8) :
    ∃ k ∈ Finset.Icc 1 255, power g k = x := by
  have hmaps : Set.MapsTo (power g) (Finset.Icc 1 255) (Finset.univ.erase 0x00#8) :=
    fun k _ => by simpa using hne k
  have hinj : Set.InjOn (power g) (Finset.Icc 1 255) := by
    simpa using power_injOn_of_mulOrder horder
  have hcard : (Finset.univ.erase (0x00#8 : Byte)).card ≤ (Finset.Icc 1 255).card := by
    rw [Finset.card_erase_of_mem (Finset.mem_univ _), Finset.card_univ,
      ← FinEnum.card_eq_fintypeCard, FinEnum.card_bitVec, Nat.card_Icc]
    decide
  exact Finset.surjOn_of_injOn_of_card_le _ hmaps hinj hcard (by simpa using hx)

theorem powers_of_mulOrder {h : Byte} (hgh : multiply g h = 0x01#8) :
    power g 255 = 0x01#8 ∧ (∀ k, power g k ≠ 0x00#8) ∧
    ∀ x : Byte, x ≠ 0x00#8 → ∃! k : Nat, (1 ≤ k ∧ k ≤ 255) ∧ power g k = x := by
  refine ⟨power_eq_one_iff.mpr (dvd_of_eq horder), power_ne_zero hgh, fun x hx => ?_⟩
  obtain ⟨k, hk, rfl⟩ := exists_power_eq_of_mulOrder horder (power_ne_zero hgh) hx
  have hk := Finset.mem_Icc.mp hk
  exact ⟨k, ⟨hk, rfl⟩, fun j ⟨hj, hjk⟩ => power_injOn_of_mulOrder horder hj hk hjk⟩

end

theorem power_two_ne_one {k : Nat} (hk : 1 ≤ k) (hk' : k < 51) : power 0x02#8 k ≠ 0x01#8 := by
  rw [Ne, power_eq_one_iff, mulOrder_two]
  exact Nat.not_dvd_of_pos_of_lt hk hk'

/-- Settles O10: 0x03 has order 255, and its inverse has the same order. -/
theorem walkConstantsGenerateTheGroup : Obligations.WalkConstantsGenerateTheGroup := by
  refine ⟨multiply_three_inverse, ?_, power_eq_one_iff.mpr (dvd_of_eq mulOrder_two),
    fun _ => power_two_ne_one⟩
  rintro g (rfl | rfl)
  · exact powers_of_mulOrder mulOrder_three multiply_three_inverse
  · exact powers_of_mulOrder ((mulOrder_eq_of_inverse multiply_three_inverse).trans mulOrder_three)
      ((multiply_comm _ _).trans multiply_three_inverse)

/-! ## Inverses (O9) -/

theorem exists_inverse {x : Byte} (hx : x ≠ 0x00#8) : ∃ y, multiply x y = 0x01#8 := by
  obtain ⟨k, -, rfl⟩ :=
    exists_power_eq_of_mulOrder mulOrder_three (power_ne_zero multiply_three_inverse) hx
  exact ⟨power 0xF6#8 k, multiply_power_power multiply_three_inverse k⟩

/-- Settles O9: a nonzero byte is a power of 0x03, whose inverse is that power of 0xF6. -/
theorem nonzeroHasExactlyOneInverse : Obligations.NonzeroHasExactlyOneInverse := by
  refine ⟨fun x hx => ?_, fun y h => ne_zero_of_multiply_eq_one h rfl, by decide⟩
  obtain ⟨y, hy⟩ := exists_inverse hx
  exact ⟨y, hy, fun z hz => inverse_unique hz hy⟩

end Sys2Proof.Proofs
end

section
/-!
PROOFS. The commands GFADD and GFMUL (O1, O2; R69, R70).
-/

namespace Sys2Proof.Proofs

open Sys2Proof.Machine Sys2Proof.Laws

/-- Settles O1: past its one check GFADD writes the sum to RES. -/
theorem gfaddWritesFieldSum : Obligations.GfaddWritesFieldSum :=
  ⟨fun _ _ _ hf => whenReady_ready hf _, fun a b _ hf => exec_halted hf (.gfadd a b),
    fun a b => decode_encode (.gfadd a b), fun _ => ⟨BitVec.xor_self, BitVec.xor_zero⟩,
    decode_encode (.gfadd 0x57#8 0x83#8), rfl⟩

/-- Settles O2: past its one check GFMUL writes the product to RES; its corner cases are laws of the
field. -/
theorem gfmulWritesFieldProduct : Obligations.GfmulWritesFieldProduct :=
  ⟨fun _ _ _ hf => whenReady_ready hf _, fun a b _ hf => exec_halted hf (.gfmul a b),
    fun a b => decode_encode (.gfmul a b),
    fun a b => ⟨multiply_zero_left b, multiply_zero_right a, multiply_one_right a, multiply_one_left b⟩,
    by decide, multiply_comm, decode_encode (.gfmul 0x57#8 0x83#8), by decide⟩

end Sys2Proof.Proofs
end

section
/-!
PROOFS. Rotations and the affine transform (O12, O13; R81, R82).
-/

namespace Sys2Proof.Proofs

open Sys2Proof.Machine

theorem rotl8_eq_rotateLeft {n : Nat} (hn : n < 8) (x : Byte) : rotl8 x n = x.rotateLeft n := by
  rw [BitVec.rotateLeft_def, Nat.mod_eq_of_lt hn, rotl8]

/-- A bit either moves up by n, or wraps round bit 7. -/
theorem getLsbD_rotl8 {n i : Nat} (hn : n < 8) (hi : i < 8) (x : Byte) :
    (rotl8 x n).getLsbD ((i + n) % 8) = x.getLsbD i := by
  rw [rotl8_eq_rotateLeft hn, BitVec.getLsbD_rotateLeft, Nat.mod_eq_of_lt hn]
  by_cases h : i + n < 8
  · simp [Nat.mod_eq_of_lt h, h]
  · have hmod : (i + n) % 8 = i + n - 8 := by omega
    have hlt : i + n - 8 < n := by omega
    have hback : 8 - n + (i + n - 8) = i := by omega
    simp [hmod, hlt, hback]

/-- Settles O12: `rotl8` is the library's rotation. -/
theorem rotationWrapsBits : Obligations.RotationWrapsBits :=
  ⟨fun x _ _ _ hn hi => getLsbD_rotl8 (by omega) hi x, by decide⟩

theorem affineXf_eq_rotateLeft (q : Byte) :
    affineXf q = q ^^^ q.rotateLeft 1 ^^^ q.rotateLeft 2 ^^^ q.rotateLeft 3 ^^^ q.rotateLeft 4 := by
  simp only [affineXf, rotl8_eq_rotateLeft (show 1 < 8 by decide),
    rotl8_eq_rotateLeft (show 2 < 8 by decide), rotl8_eq_rotateLeft (show 3 < 8 by decide),
    rotl8_eq_rotateLeft (show 4 < 8 by decide)]

/-- Settles O13: each of the four terms is a rotation. -/
theorem affineTransformValues : Obligations.AffineTransformValues :=
  ⟨affineXf_eq_rotateLeft, fun _ => rfl, by decide⟩

end Sys2Proof.Proofs
end

section
/-!
PROOFS. The walk of DERIVE, step by step (O14 to O17; R83, R85, R86, R92, R93). P and Q run through the
powers of 0x03 and of its inverse 0xF6, so the integrity check holds at each step, and P is 0x01 again at
step 255, the order of 0x03, and at none before it.
-/

namespace Sys2Proof.Proofs

open Sys2Proof.Machine Sys2Proof.Laws

/-! ## P and Q (O14) -/

theorem walkAfter_q (k : Nat) (sbox : Memory) : (walkAfter k sbox).q = power 0xF6#8 k := by
  induction k with
  | zero => rfl
  | succ k ih => rw [walkAfter_succ, walkStep_q, ih, power]

theorem walkAfter_pair (k : Nat) (sbox : Memory) :
    multiply (walkAfter k sbox).p (walkAfter k sbox).q = 0x01#8 := by
  rw [walkAfter_p, walkAfter_q, multiply_power_power multiply_three_inverse]

/-- Settles O14: each step takes P and Q to their next powers, and 0xF6 is the inverse of 0x03. -/
theorem walkPairsAreInverses : Obligations.WalkPairsAreInverses :=
  fun k sbox => ⟨walkAfter_p k sbox, walkAfter_q k sbox, walkAfter_pair k sbox⟩

/-! ## The length of the walk -/

theorem walkChecks_eq_true_iff {w : Walk} : walkChecks w = true ↔ multiply w.p w.q = 0x01#8 :=
  beq_iff_eq

theorem walkAfter_p_eq_one_iff {k : Nat} {sbox : Memory} :
    (walkAfter k sbox).p = 0x01#8 ↔ 255 ∣ k := by
  rw [walkAfter_p, power_eq_one_iff, mulOrder_three]

theorem walkAfter_255_p (sbox : Memory) : (walkAfter 255 sbox).p = 0x01#8 :=
  walkAfter_p_eq_one_iff.mpr dvd_rfl

/-- The inverse of 0x01 is 0x01. -/
theorem walkAfter_255_q (sbox : Memory) : (walkAfter 255 sbox).q = 0x01#8 := by
  have hpair := walkAfter_pair 255 sbox
  rwa [walkAfter_255_p, multiply_one_left] at hpair

/-- One turn of the walk of DERIVE passes its check, so that only the test of P is left. -/
theorem walk_succ_walkAfter (n k : Nat) (sbox : Memory) :
    walk (n + 1) (walkAfter k sbox) =
      if (walkAfter (k + 1) sbox).p = 0x01#8 then .returned (walkAfter (k + 1) sbox)
      else walk n (walkAfter (k + 1) sbox) := by
  rw [walk_succ, ← walkAfter_succ, if_pos (walkChecks_eq_true_iff.mpr (walkAfter_pair _ _))]

/-- The first 254 turns go on to the next one. -/
theorem walk_add_walkStart {k : Nat} (hk : k < 255) (n : Nat) (sbox : Memory) :
    walk (k + n) (walkStart sbox) = walk n (walkAfter k sbox) := by
  induction k generalizing n with
  | zero => rw [Nat.zero_add]; rfl
  | succ k ih =>
    have hp : (walkAfter (k + 1) sbox).p ≠ 0x01#8 := by
      rw [Ne, walkAfter_p_eq_one_iff]
      exact Nat.not_dvd_of_pos_of_lt k.succ_pos hk
    rw [Nat.add_assoc, Nat.add_comm 1 n, ih (by omega), walk_succ_walkAfter, if_neg hp]

theorem walk_walkStart_of_lt {n : Nat} (hn : n < 255) (sbox : Memory) :
    walk n (walkStart sbox) = .unfinished :=
  walk_add_walkStart hn 0 sbox

theorem walk_walkStart_of_le {n : Nat} (hn : 255 ≤ n) (sbox : Memory) :
    walk n (walkStart sbox) = .returned (walkAfter 255 sbox) := by
  obtain ⟨m, rfl⟩ := Nat.exists_eq_add_of_le hn
  calc walk (255 + m) (walkStart sbox)
    _ = walk (254 + (m + 1)) (walkStart sbox) := by congr 1; omega
    _ = walk (m + 1) (walkAfter 254 sbox) := walk_add_walkStart (by decide) (m + 1) sbox
    _ = .returned (walkAfter 255 sbox) := by
      rw [walk_succ_walkAfter, if_pos (walkAfter_255_p sbox)]

/-! ## The entries that the walk stores -/

/-- The store of a step: the affine byte of its Q at its P. -/
theorem walkAfter_succ_sbox (k : Nat) (sbox : Memory) :
    (walkAfter (k + 1) sbox).sbox =
      (walkAfter k sbox).sbox.write (walkAfter (k + 1) sbox).p.toNat
        (affine (walkAfter (k + 1) sbox).q) := by
  rw [walkAfter_succ]
  rfl

theorem existsUnique_walkAfter_p (sbox : Memory) {x : Byte} (hx : x ≠ 0x00#8) :
    ∃! k : Nat, (1 ≤ k ∧ k ≤ 255) ∧ (walkAfter k sbox).p = x := by
  simp only [walkAfter_p]
  obtain ⟨-, -, hpowers⟩ := powers_of_mulOrder mulOrder_three multiply_three_inverse
  exact hpowers x hx

/-- No later step is at the same P, so none writes the entry again. -/
theorem read_walkAfter {k n : Nat} (hk : 1 ≤ k) (hkn : k ≤ n) (hn : n ≤ 255) (sbox : Memory) :
    Memory.read (walkAfter n sbox).sbox (walkAfter k sbox).p.toNat =
      some (affine (walkAfter k sbox).q) := by
  induction n, hkn using Nat.le_induction with
  | base =>
    obtain ⟨k, rfl⟩ := Nat.exists_eq_add_of_le' hk
    rw [walkAfter_succ_sbox, read_write_same]
  | succ n hkn ih =>
    have hne : (walkAfter k sbox).p.toNat ≠ (walkAfter (n + 1) sbox).p.toNat := by
      intro h
      have hp := BitVec.eq_of_toNat_eq h
      rw [walkAfter_p, walkAfter_p] at hp
      have hkn' := power_injOn_of_mulOrder mulOrder_three ⟨hk, by omega⟩ ⟨by omega, hn⟩ hp
      omega
    rw [walkAfter_succ_sbox, read_write_other _ _ hne, ih (by omega)]

/-- P is never zero. -/
theorem read_walkAfter_zero (k : Nat) (sbox : Memory) :
    Memory.read (walkAfter k sbox).sbox 0 = Memory.read sbox 0 := by
  induction k with
  | zero => rfl
  | succ k ih =>
    have hne : 0 ≠ (walkAfter (k + 1) sbox).p.toNat := by
      intro h
      have hp : (walkAfter (k + 1) sbox).p = 0x00#8 := BitVec.eq_of_toNat_eq h.symm
      exact ne_zero_of_multiply_eq_one (walkAfter_pair (k + 1) sbox) hp
    rw [walkAfter_succ_sbox, read_write_other _ _ hne, ih]

/-- Settles O15: 0x03 has order 255 and its powers are all the nonzero bytes. -/
theorem walkRunsExactly255Steps : Obligations.WalkRunsExactly255Steps := by
  refine fun sbox => ⟨fun n hn => walk_walkStart_of_lt hn sbox, walk_walkStart_of_le le_rfl sbox,
    walkAfter_255_p sbox, walkAfter_255_q sbox, fun x => existsUnique_walkAfter_p sbox,
    fun k hk hk' => read_walkAfter hk hk' le_rfl sbox, read_walkAfter_zero 255 sbox, ?_⟩
  simp only [walkAfter_p, walkAfter_q]
  decide +kernel

/-! ## The integrity check (O16, O17) -/

theorem walk_succ_of_failed_check {w : Walk}
    (h : multiply (walkStep w).p (walkStep w).q ≠ 0x01#8) (n : Nat) :
    walk (n + 1) w = .inconsistent (walkStep w) := by
  rw [walk_succ, if_neg (mt walkChecks_eq_true_iff.mp h)]

/-- Settles O16: the check ends the walk, and the fault entry that follows writes FAULT and FCAUSE alone. -/
theorem failedCheckEndsDerivation : Obligations.FailedCheckEndsDerivation := by
  intro n w s h
  have hwalk := walk_succ_of_failed_check h n
  refine ⟨hwalk, ?_⟩
  rw [hwalk]
  rfl

theorem walk_walkStart_ne_inconsistent (n : Nat) (sbox : Memory) (w : Walk) :
    walk n (walkStart sbox) ≠ .inconsistent w := by
  obtain hn | hn := Nat.lt_or_ge n 255
  · rw [walk_walkStart_of_lt hn]
    nofun
  · rw [walk_walkStart_of_le hn]
    nofun

theorem noInconsistency_keptByParts : KeptByParts NoInconsistency where
  takeInput _ _ h := h
  effect i s t h he := by
    cases he with
    | notReady => nofun
    | ignored | result | emitted | derived => exact h
  illegal _ _ _ := nofun
  reset _ _ := nofun
  abandon _ _ _ := nofun
  powerOn _ _ := nofun

/-- Settles O17: a walk from the start is unfinished or returns, so DERIVE raises no fault. -/
theorem integrityFaultNeverHappens : Obligations.IntegrityFaultNeverHappens :=
  ⟨walk_walkStart_ne_inconsistent, noInconsistency_keptByParts.step⟩

end Sys2Proof.Proofs
end

section
/-!
PROOFS. DERIVE and RDSBOX (O18 to O22; R88 to R91). DERIVE stores every entry of both arrays, so from
canonical arrays it ends with the same arrays as data, whatever they held.
-/

namespace Sys2Proof.Proofs

open Sys2Proof.Machine Sys2Proof.Laws

/-! ## The state after DERIVE -/

theorem exec_derive_sboxesDerived {s : State} (hs : s.fault = false) :
    ∃ t : State, exec .derive s = .next t ∧
      t = { s with sbox := t.sbox, isbox := t.isbox, sbv := true, p := 0x01#8, q := 0x01#8 } ∧
      SboxesDerived t := by
  obtain ⟨sbox, isbox, h, hsbox, hisbox, -, -⟩ := exec_derive_ready hs
  exact ⟨_, h, rfl, sboxesDerived_of_printed (memRead_printed hsbox hisbox) rfl rfl⟩

theorem exec_derive_sboxesDerived_of_eq {s t : State} (hs : s.fault = false)
    (h : exec .derive s = .next t) :
    t = { s with sbox := t.sbox, isbox := t.isbox, sbv := true, p := 0x01#8, q := 0x01#8 } ∧
      SboxesDerived t := by
  obtain ⟨u, hu, ht⟩ := exec_derive_sboxesDerived hs
  cases h.symm.trans hu
  exact ht

/-- The arrays after DERIVE, as the walk, the fixed entry and the inverse pass store them. -/
theorem exec_derive_arrays {s t : State} (hs : s.fault = false) (h : exec .derive s = .next t) :
    t.sbox = (walkAfter 255 s.sbox).sbox.write 0 affineConstant ∧
    t.isbox = invertArray t.sbox s.isbox := by
  have hexec : exec .derive s = finishDerive (setSbv false s) (walk walkLength (walkStart s.sbox)) :=
    whenReady_ready hs _
  rw [hexec, walkLength, walk_walkStart_of_le le_rfl] at h
  generalize walkAfter 255 s.sbox = w at h ⊢
  cases h
  constructor
  · rfl
  · simp only [fixZero, invert, setSbv_sbox, setSbv_isbox, setIsbox_sbox, setIsbox_isbox,
      writeSbox_isbox, setWalk_isbox]

theorem exec_derive_canonical {s t : State} (hs : ArraysCanonical s) (h : exec .derive s = .next t) :
    ArraysCanonical t :=
  arraysCanonical_keptByParts.effect .derive s t hs (exec_effect h)

/-! ## Canonical arrays are equal if they agree at the 256 indexes -/

theorem read_eq_none_of_rising_of_ge {m : Memory} {lo a : Nat} (hm : m.risingFrom lo = true)
    (ha : 256 ≤ a) : m.read a = none := by
  induction m generalizing lo with
  | nil => rfl
  | cons c m ih =>
    obtain ⟨b, w⟩ := c
    simp only [Memory.risingFrom, Bool.and_eq_true, decide_eq_true_eq] at hm
    obtain ⟨⟨-, hb⟩, hrest⟩ := hm
    rw [read_cons, if_neg (by omega), ih hrest]

theorem wf_ext_byte {m n : Memory} (hm : m.wf = true) (hn : n.wf = true)
    (h : ∀ i : Byte, m.read i.toNat = n.read i.toNat) : m = n := by
  refine wf_ext hm hn fun a => ?_
  obtain ha | ha := Nat.lt_or_ge a 256
  · exact h (BitVec.ofNatLT a ha)
  · rw [read_eq_none_of_rising_of_ge hm ha, read_eq_none_of_rising_of_ge hn ha]

/-! ## DERIVE forgets the old contents (O19) -/

/-- Entry 0 is set by hand, and every other entry is stored by the walk. -/
theorem read_fixed_walkAfter_eq (m n : Memory) (v i : Byte) :
    Memory.read ((walkAfter 255 m).sbox.write 0 v) i.toNat =
      Memory.read ((walkAfter 255 n).sbox.write 0 v) i.toNat := by
  rw [read_write, read_write]
  split
  · rfl
  next h =>
    have hi : i ≠ 0x00#8 := fun h0 => h (congrArg BitVec.toNat h0)
    obtain ⟨k, ⟨⟨hk, hk'⟩, hp⟩, -⟩ := existsUnique_walkAfter_p m hi
    have hstored (l : Memory) :
        Memory.read (walkAfter 255 l).sbox (power 0x03#8 k).toNat =
          some (affine (power 0xF6#8 k)) := by
      rw [← walkAfter_p k l, ← walkAfter_q k l, read_walkAfter hk hk' le_rfl]
    rw [← hp, walkAfter_p, hstored m, hstored n]

/-- Equal runs of stores leave equal bytes where they store, and where the arrays agreed before. -/
theorem read_foldl_write_eq {key val : Byte → Byte} {l : List Byte} {m n : Memory} {a : Byte}
    (h : (∃ i ∈ l, key i = a) ∨ m.read a.toNat = n.read a.toNat) :
    Memory.read (l.foldl (fun m i => m.write (key i).toNat (val i)) m) a.toNat =
      Memory.read (l.foldl (fun m i => m.write (key i).toNat (val i)) n) a.toNat := by
  induction l generalizing m n with
  | nil => simpa using h
  | cons j l ih =>
    refine ih ?_
    rw [read_write, read_write]
    by_cases hj : a = key j
    · exact .inr (by simp [hj])
    · have hne : a.toNat ≠ (key j).toNat := fun ht => hj (BitVec.eq_of_toNat_eq ht)
      simpa [hne, Ne.symm hj] using h

/-- The inverse pass over a permutation stores every entry. -/
theorem read_invertArray_eq {sbox : Memory} (h : (entryOf .s sbox).Surjective) (m n : Memory)
    (a : Byte) : Memory.read (invertArray sbox m) a.toNat = Memory.read (invertArray sbox n) a.toNat := by
  obtain ⟨i, hi⟩ := h a
  exact read_foldl_write_eq (.inl ⟨i, mem_indexes i, hi⟩)

/-- Settles O19: every index of both arrays is stored, and canonical arrays are equal by their reads. -/
theorem deriveForgetsOldContents : Obligations.DeriveForgetsOldContents := by
  intro s t s' t' hs ht hfs hft hds hdt
  obtain ⟨hsbox, hisbox⟩ := exec_derive_arrays hfs hds
  obtain ⟨htbox, hitbox⟩ := exec_derive_arrays hft hdt
  obtain ⟨hwf, hiwf⟩ := exec_derive_canonical hs hds
  obtain ⟨hwf', hiwf'⟩ := exec_derive_canonical ht hdt
  have heq : s'.sbox = t'.sbox := wf_ext_byte hwf hwf' fun i => by
    rw [hsbox, htbox, read_fixed_walkAfter_eq s.sbox t.sbox]
  obtain ⟨-, hderived⟩ := exec_derive_sboxesDerived_of_eq hft hdt
  have hsurj : (entryOf .s t'.sbox).Surjective := hderived.bijective.surjective
  refine ⟨heq, wf_ext_byte hiwf hiwf' fun i => ?_⟩
  rw [hisbox, hitbox, heq, read_invertArray_eq hsurj s.isbox t.isbox]

/-! ## DERIVE fills both arrays (O18) -/

/-- A second DERIVE changes nothing. -/
theorem exec_derive_again {s t : State} (hc : ArraysCanonical s) (hs : s.fault = false)
    (h : exec .derive s = .next t) : exec .derive t = .next t := by
  obtain ⟨ht, -⟩ := exec_derive_sboxesDerived_of_eq hs h
  have hft : t.fault = false := by rw [ht]; exact hs
  obtain ⟨u, hu, heq, -⟩ := exec_derive_sboxesDerived hft
  obtain ⟨hsbox, hisbox⟩ :=
    deriveForgetsOldContents t s u t (exec_derive_canonical hc h) hc hft hs hu h
  have hut : u = t := by rw [heq, hsbox, hisbox, ht]
  rw [hu, hut]

theorem exec_derive_reset :
    ∃ t : State, exec .derive State.reset = .next t ∧ t.sbv = true ∧ t.p = 0x01#8 ∧ t.q = 0x01#8 ∧
      status t = 0x02#8 ∧ memRead .s 0x53#8 t = 0xED#8 ∧ memRead .si 0xED#8 t = 0x53#8 ∧
      t.res = 0x00#8 ∧ t.out = [] := by
  obtain ⟨t, h, ht, hd⟩ := exec_derive_sboxesDerived (s := State.reset) rfl
  refine ⟨t, h, ?_⟩
  rw [hd.printed, hd.printed, ht]
  exact ⟨rfl, rfl, rfl, status_eq (c := .none) (v := true) (f := false) rfl rfl rfl, by decide,
    by decide, rfl, rfl⟩

/-- Settles O18: the walk, the fixed entry and the inverse pass store the printed boxes from any state. -/
theorem deriveFillsBothArrays : Obligations.DeriveFillsBothArrays := by
  refine ⟨fun s hs => ?_, fun s hs => exec_halted hs .derive, decode_encode .derive,
    fun s t => exec_derive_again, exec_derive_reset⟩
  obtain ⟨t, h, ht, hd⟩ := exec_derive_sboxesDerived hs
  exact ⟨t, h, ht, hd.printed⟩

/-! ## The derived boxes (O20, O21) -/

theorem printedBox_s_ne_self : ∀ i, printedBox .s i ≠ i := by decide +kernel

/-- Settles O20: DERIVE establishes R22, and the printed S-box has no fixed point. -/
theorem derivedBoxesAreInversePermutations : Obligations.DerivedBoxesAreInversePermutations := by
  intro s hs
  obtain ⟨t, h, -, hd⟩ := exec_derive_sboxesDerived hs
  refine ⟨t, h, hd.bijective, hd.zeroEntry, hd.inverseOfForward, hd.forwardOfInverse, fun i => ?_,
    hd.printed⟩
  rw [hd.printed]
  exact printedBox_s_ne_self i

theorem walkAfter_48 (sbox : Memory) :
    (walkAfter 48 sbox).p = 0x53#8 ∧ (walkAfter 48 sbox).q = 0xCA#8 := by
  rw [walkAfter_p, walkAfter_q]
  decide +kernel

/-- Settles O21: the values stand in the printed boxes, and steps 255 and 48 are powers of 0x03 and 0xF6. -/
theorem derivedBoxesHaveKnownValues : Obligations.DerivedBoxesHaveKnownValues := by
  intro s hs
  obtain ⟨t, h, -, hd⟩ := exec_derive_sboxesDerived hs
  have hvalues :
      printedBox .s 0x00#8 = 0x63#8 ∧ printedBox .s 0x01#8 = 0x7C#8 ∧ printedBox .s 0x53#8 = 0xED#8 ∧
      printedBox .s 0x02#8 = 0x77#8 ∧ printedBox .s 0x03#8 = 0x7B#8 ∧ printedBox .s 0x10#8 = 0xCA#8 ∧
      printedBox .s 0x52#8 = 0x00#8 ∧ printedBox .s 0xFF#8 = 0x16#8 ∧
      printedBox .si 0x00#8 = 0x52#8 ∧ printedBox .si 0x01#8 = 0x09#8 ∧
      printedBox .si 0x63#8 = 0x00#8 ∧ printedBox .si 0x7C#8 = 0x01#8 ∧
      printedBox .si 0xED#8 = 0x53#8 ∧ printedBox .si 0xFF#8 = 0x7D#8 := by decide
  refine ⟨t, h, ?_⟩
  simp only [hd.printed, hvalues, walkAfter_255_p, walkAfter_255_q, walkAfter_48, and_true]

/-! ## RDSBOX (O22) -/

theorem exec_rdsbox_invalid {s : State} (hf : s.fault = false) (hv : s.sbv = false) (src : Source)
    (idx : Byte) : exec (.rdsbox src idx) s = .next (raiseFault .sboxNotReady s) :=
  (whenReady_ready hf _).trans (whenSboxValid_invalid hv _)

theorem exec_rdsbox_after_derive {s t : State} (hs : s.fault = false) (h : exec .derive s = .next t)
    (src : Source) (idx : Byte) :
    exec (.rdsbox src idx) t = .next { t with res := printedBox src idx } := by
  obtain ⟨ht, hd⟩ := exec_derive_sboxesDerived_of_eq hs h
  have hf : t.fault = false := by rw [ht]; exact hs
  have hv : t.sbv = true := by rw [ht]
  rw [exec_rdsbox_valid hf hv, hd.printed]
  rfl

/-- Settles O22: past its two checks RDSBOX writes the entry to RES. -/
theorem rdsboxReadsSelectedEntry : Obligations.RdsboxReadsSelectedEntry :=
  ⟨fun idx _ hf hv => ⟨exec_rdsbox_valid hf hv .s idx, exec_rdsbox_valid hf hv .si idx⟩,
    fun src idx _ hf hv => exec_rdsbox_invalid hf hv src idx,
    fun src idx _ hf => exec_halted hf (.rdsbox src idx),
    fun src idx => decode_encode (.rdsbox src idx),
    fun _ _ hs h => ⟨exec_rdsbox_after_derive hs h .s 0x53#8, exec_rdsbox_after_derive hs h .si 0xED#8,
      exec_rdsbox_after_derive hs h .s 0x00#8⟩⟩

end Sys2Proof.Proofs
end

section
/-!
PROOFS. Table words and the commands TWORD and GENTBL (O24 to O30, O32; R97 to R101, R105 to R108). Each
byte of a table word is one product, so the laws of the field and of the packing give the laws of the
tables; after DERIVE a table is one of the printed boxes.
-/

namespace Sys2Proof.Proofs

open Sys2Proof.Machine Sys2Proof.Laws

/-! ## The lanes of a table word (O24, O25) -/

/-- Settles O24: the packing is the definition of `tword`, and the examples are evaluated. -/
theorem twordPacksFourProducts : Obligations.TwordPacksFourProducts := ⟨fun _ _ => rfl, by decide⟩

/-- Byte k is the product with multiplier k alone (R98). -/
theorem byteOf_tword {k : Nat} (hk : k < 4) (x : Byte) (m : MulVec) :
    byteOf k (tword x m) = multiply x (laneOf k m) := by
  unfold byteOf tword
  interval_cases k
  · exact extractLsb'_packBe_byte0 ..
  · exact extractLsb'_packBe_byte1 ..
  · exact extractLsb'_packBe_byte2 ..
  · exact extractLsb'_packBe_byte3 ..

/-- Settles O25: each slice of a table word is the product of its lane. -/
theorem tableLanesAreIndependent : Obligations.TableLanesAreIndependent := by
  refine ⟨fun x m k hk => byteOf_tword hk x m, fun x m n k hk hlane => ?_⟩
  calc byteOf k (tword x m)
    _ = multiply x (laneOf k n) := hlane ▸ byteOf_tword hk x m
    _ = byteOf k (tword x n) := (byteOf_tword hk x n).symm

@[simp] theorem tword_zero_byte (m : MulVec) : tword 0x00#8 m = 0x00000000#32 :=
  calc tword 0x00#8 m
    _ = packBe 0x00#8 0x00#8 0x00#8 0x00#8 := by simp only [tword, multiply_zero_left]
    _ = 0x00000000#32 := rfl

@[simp] theorem tword_zero_vector (x : Byte) : tword x ⟨0x00#8, 0x00#8, 0x00#8, 0x00#8⟩ = 0x00000000#32 :=
  calc tword x ⟨0x00#8, 0x00#8, 0x00#8, 0x00#8⟩
    _ = packBe 0x00#8 0x00#8 0x00#8 0x00#8 := by simp only [tword, multiply_zero_right]
    _ = 0x00000000#32 := rfl

theorem tword_unit_vector (x : Byte) :
    tword x ⟨0x01#8, 0x01#8, 0x01#8, 0x01#8⟩ = x ++ x ++ x ++ x := by
  simp only [tword, multiply_one_right, packBe]

/-! ## TWORD (O26) -/

/-- Settles O26: past its one check TWORD emits its word; a lane with multiplier 0 or 1 is a corner case
of the product. -/
theorem twordEmitsOneWord : Obligations.TwordEmitsOneWord := by
  refine ⟨fun _ _ _ hf => whenReady_ready hf _, fun x m _ hf => exec_halted hf (.tword x m),
    fun x m => decode_encode (.tword x m), tword_zero_byte, fun x m k hk => ?_,
    decode_encode (.tword 0x63#8 ⟨2, 1, 1, 3⟩), rfl⟩
  rw [byteOf_tword hk]
  constructor
  · intro hlane
    rw [hlane, multiply_zero_right]
  · intro hlane
    rw [hlane, multiply_one_right]

/-! ## GENTBL (O27, O28) -/

theorem exec_gentbl_valid {s : State} (hf : s.fault = false) (hv : s.sbv = true) (src : Source)
    (m : MulVec) : exec (.gentbl src m) s = .next (emitAll (generateTable src m s) s) :=
  (whenReady_ready hf _).trans (whenSboxValid_valid hv _)

theorem exec_gentbl_invalid {s : State} (hf : s.fault = false) (hv : s.sbv = false) (src : Source)
    (m : MulVec) : exec (.gentbl src m) s = .next (raiseFault .sboxNotReady s) :=
  (whenReady_ready hf _).trans (whenSboxValid_invalid hv _)

/-- A table does not depend on OUT. -/
@[simp] theorem generateTable_emitAll (src : Source) (m : MulVec) (ws : List TableWord) (s : State) :
    generateTable src m (emitAll ws s) = generateTable src m s := rfl

/-- A second GENTBL emits the words of the first again, as neither array has changed (R101). -/
theorem exec_gentbl_again {s t : State} {src : Source} {m : MulVec} (hf : s.fault = false)
    (hv : s.sbv = true) (h : exec (.gentbl src m) s = .next t) :
    exec (.gentbl src m) t = .next (emitAll (wordsOf s t) t) := by
  cases (exec_gentbl_valid hf hv src m).symm.trans h
  rw [exec_gentbl_valid (s := emitAll _ s) hf hv, wordsOf_emitAll, generateTable_emitAll]

/-- A table over the printed box that SRC selects, as it stands after DERIVE (R100). -/
def printedTable (src : Source) (m : MulVec) : List TableWord :=
  indexes.map fun i => tword (printedBox src i) m

theorem exec_gentbl_after_derive {s t : State} (hs : s.fault = false)
    (h : exec .derive s = .next t) (src : Source) (m : MulVec) :
    exec (.gentbl src m) t = .next (emitAll (printedTable src m) t) := by
  obtain ⟨ht, hd⟩ := exec_derive_sboxesDerived_of_eq hs h
  have hf : t.fault = false := by rw [ht]; exact hs
  have hv : t.sbv = true := by rw [ht]
  rw [exec_gentbl_valid hf hv]
  simp only [generateTable, printedTable, hd.printed]

/-- The first four and the last two words of Te0 (R101). -/
theorem printedTable_te0_ends :
    (printedTable .s ⟨2, 1, 1, 3⟩).take 4 =
      [0xC66363A5#32, 0xF87C7C84#32, 0xEE777799#32, 0xF67B7B8D#32] ∧
    (printedTable .s ⟨2, 1, 1, 3⟩).drop 254 = [0x6DBBBBD6#32, 0x2C16163A#32] := by decide +kernel

/-- An entry 0x00, which SBOX holds at 0x52 and ISBOX at 0x63, gives the word 0 (R101). -/
theorem tword_zero_entry_after_derive {s t : State} (hs : s.fault = false)
    (h : exec .derive s = .next t) (m : MulVec) :
    tword (memRead .s 0x52#8 t) m = 0x00000000#32 ∧
    tword (memRead .si 0x63#8 t) m = 0x00000000#32 := by
  obtain ⟨-, hd⟩ := exec_derive_sboxesDerived_of_eq hs h
  have hs0 : memRead .s 0x52#8 t = 0x00#8 := (hd.printed ..).trans (by decide)
  have hsi0 : memRead .si 0x63#8 t = 0x00#8 := (hd.printed ..).trans (by decide)
  rw [hs0, hsi0]
  exact ⟨tword_zero_byte m, tword_zero_byte m⟩

/-- Settles O27: past its two checks GENTBL emits the table of the selected array, one word for each
index. -/
theorem gentblEmitsWholeTable : Obligations.GentblEmitsWholeTable :=
  ⟨fun src m s hf hv => ⟨generateTable src m s, exec_gentbl_valid hf hv src m,
      generateTable_length src m s, generateTable_getElem? src m s⟩,
    fun src m _ hf hv => exec_gentbl_invalid hf hv src m,
    fun src m _ hf => exec_halted hf (.gentbl src m),
    fun src m => decode_encode (.gentbl src m),
    fun _ => ⟨rfl, rfl⟩,
    fun _ _ hs h => ⟨printedTable .s ⟨2, 1, 1, 3⟩, exec_gentbl_after_derive hs h .s ⟨2, 1, 1, 3⟩,
      printedTable_te0_ends⟩,
    tword_zero_vector,
    fun _ _ m hs h => tword_zero_entry_after_derive hs h m,
    fun _ _ _ _ hf hv h => exec_gentbl_again hf hv h⟩

theorem generateTable_unit_vector (src : Source) (s : State) :
    generateTable src ⟨0x01#8, 0x01#8, 0x01#8, 0x01#8⟩ s =
      indexes.map fun i => memRead src i s ++ memRead src i s ++ memRead src i s ++ memRead src i s := by
  simp only [generateTable, tword_unit_vector]

/-- Settles O28: the multiplier 0x01 leaves the entry as it is in each of the four lanes. -/
theorem unitVectorCopiesTheByte : Obligations.UnitVectorCopiesTheByte := by
  intro src s hf hv
  rw [← generateTable_unit_vector]
  exact exec_gentbl_valid hf hv src ⟨1, 1, 1, 1⟩

/-! ## Rotated words (O29) -/

/-- Rotating by the width of the low part exchanges the two parts. -/
theorem rotateRight_append {n m : Nat} (hn : 0 < n) (x : BitVec n) (y : BitVec m) :
    (x ++ y).rotateRight m = (y ++ x).cast (Nat.add_comm m n) := by
  have hm : m % (n + m) = m := Nat.mod_eq_of_lt (Nat.lt_add_of_pos_left hn)
  refine BitVec.eq_of_getLsbD_eq fun i hi => ?_
  rw [BitVec.getLsbD_rotateRight, hm, Nat.add_sub_cancel, BitVec.getLsbD_cast,
    BitVec.getLsbD_append, BitVec.getLsbD_append, BitVec.getLsbD_append]
  by_cases h : i < n
  · simp [h]
  · have hlt : i - n < m := by omega
    simp [h, hi, hlt]

/-- The packing cut after its first byte. -/
theorem packBe_eq_append_tail (b0 b1 b2 b3 : Byte) :
    packBe b0 b1 b2 b3 = b0 ++ (b1 ++ b2 ++ b3) :=
  calc packBe b0 b1 b2 b3
    _ = b0 ++ (b1 ++ b2) ++ b3 := congrArg (· ++ b3) BitVec.append_assoc
    _ = b0 ++ (b1 ++ b2 ++ b3) := BitVec.append_assoc

/-- The packing cut in the middle. -/
theorem packBe_eq_append_halves (b0 b1 b2 b3 : Byte) :
    packBe b0 b1 b2 b3 = (b0 ++ b1) ++ (b2 ++ b3) := BitVec.append_assoc

theorem packBe_rotateRight_8 (b0 b1 b2 b3 : Byte) :
    (packBe b0 b1 b2 b3).rotateRight 8 = packBe b3 b0 b1 b2 :=
  calc (packBe b0 b1 b2 b3).rotateRight 8
    _ = b3 ++ (b0 ++ b1 ++ b2) := rotateRight_append (by decide) (b0 ++ b1 ++ b2) b3
    _ = packBe b3 b0 b1 b2 := (packBe_eq_append_tail b3 b0 b1 b2).symm

theorem packBe_rotateRight_16 (b0 b1 b2 b3 : Byte) :
    (packBe b0 b1 b2 b3).rotateRight 16 = packBe b2 b3 b0 b1 := by
  rw [packBe_eq_append_halves, packBe_eq_append_halves]
  exact rotateRight_append (by decide) (b0 ++ b1) (b2 ++ b3)

theorem packBe_rotateRight_24 (b0 b1 b2 b3 : Byte) :
    (packBe b0 b1 b2 b3).rotateRight 24 = packBe b1 b2 b3 b0 := by
  rw [packBe_eq_append_tail]
  exact rotateRight_append (by decide) b0 (b1 ++ b2 ++ b3)

/-- Rotating the multipliers rotates the word (R106). -/
theorem tword_rotateRight (x m0 m1 m2 m3 : Byte) :
    tword x ⟨m3, m0, m1, m2⟩ = (tword x ⟨m0, m1, m2, m3⟩).rotateRight 8 ∧
    tword x ⟨m2, m3, m0, m1⟩ = (tword x ⟨m0, m1, m2, m3⟩).rotateRight 16 ∧
    tword x ⟨m1, m2, m3, m0⟩ = (tword x ⟨m0, m1, m2, m3⟩).rotateRight 24 :=
  ⟨(packBe_rotateRight_8 ..).symm, (packBe_rotateRight_16 ..).symm, (packBe_rotateRight_24 ..).symm⟩

/-- The S-box byte times 3 is its double and itself (R106). -/
theorem multiply_three (x : Byte) : multiply x 0x03#8 = multiply x 0x02#8 ^^^ x :=
  calc multiply x (0x02#8 ^^^ 0x01#8)
    _ = multiply x 0x02#8 ^^^ multiply x 0x01#8 := multiply_xor_right x 0x02#8 0x01#8
    _ = multiply x 0x02#8 ^^^ x := by rw [multiply_one_right]

/-- The bytes of a word of Te0 (R106). -/
theorem byteOf_te0 (x : Byte) :
    byteOf 0 (tword x ⟨2, 1, 1, 3⟩) = xtime x ∧
    byteOf 1 (tword x ⟨2, 1, 1, 3⟩) = x ∧
    byteOf 2 (tword x ⟨2, 1, 1, 3⟩) = x ∧
    byteOf 3 (tword x ⟨2, 1, 1, 3⟩) = byteOf 0 (tword x ⟨2, 1, 1, 3⟩) ^^^ x := by
  rw [byteOf_tword (by decide), byteOf_tword (by decide), byteOf_tword (by decide),
    byteOf_tword (by decide)]
  exact ⟨(xtime_eq_multiply_two x).symm, multiply_one_right x, multiply_one_right x, multiply_three x⟩

/-- Settles O29: the vectors of Te1 to Te3 and Td1 to Td3 are the rotations of those of Te0 and Td0. -/
theorem rotatedVectorsRotateWords : Obligations.RotatedVectorsRotateWords := by
  intro s i
  obtain ⟨hte1, hte2, hte3⟩ := tword_rotateRight (memRead .s i s) 2 1 1 3
  obtain ⟨htd1, htd2, htd3⟩ := tword_rotateRight (memRead .si i s) 14 9 13 11
  exact ⟨hte1, hte2, hte3, htd1, htd2, htd3, byteOf_te0 (memRead .s i s)⟩

/-! ## The ten named tables (O30, O32) -/

theorem exists_expand_eq_gentbl (table : NamedTable) : ∃ src m, table.expand = .gentbl src m := by
  cases table <;> exact ⟨_, _, rfl⟩

theorem tableEntry_of_expand {table : NamedTable} {src : Source} {m : MulVec}
    (h : table.expand = .gentbl src m) (i : Byte) (s : State) :
    tableEntry table i s = tword (memRead src i s) m := by
  rw [tableEntry, h]

/-- Settles O30: the words are those of the printed entries 0x63 and 0x52. -/
theorem firstTableEntries : Obligations.FirstTableEntries := by
  intro s hs
  obtain ⟨t, h, -, hd⟩ := exec_derive_sboxesDerived hs
  have hsbox : memRead .s 0x00#8 t = 0x63#8 := hd.zeroEntry
  have hisbox : memRead .si 0x00#8 t = 0x52#8 := (hd.printed ..).trans (by decide)
  refine ⟨t, h, ?_⟩
  simp only [NamedTable.all, List.map_cons, List.map_nil, tableEntry, NamedTable.expand, hsbox, hisbox]
  decide

/-- Settles O32: each name expands to one GENTBL, and its words are those of that command. -/
theorem eachNamedTableEmits256Words : Obligations.EachNamedTableEmits256Words := by
  intro table s hf hv
  obtain ⟨src, m, h⟩ := exists_expand_eq_gentbl table
  refine ⟨generateTable src m s, ?_, generateTable_length src m s, fun i => ?_⟩
  · rw [h]
    exact exec_gentbl_valid hf hv src m
  · rw [tableEntry_of_expand h, generateTable_getElem?]

end Sys2Proof.Proofs
end


section
/-!
PROOFS. Faults, the fault state, and steps without a command (O37, O39 to O41, O46, O48; R113, R115, R117,
R119, R127, R128). A presented word passes its checks in one order, and the first of them shuts out
everything while FAULT = 1.
-/

namespace Sys2Proof.Proofs

open Sys2Proof.Machine Sys2Proof.Laws

/-! ## SboxNotReady (O37) -/

/-- Settles O37: both commands stop at their second check. -/
theorem tablesBeforeDeriveFault : Obligations.TablesBeforeDeriveFault :=
  fun src idx m _ hf hv => ⟨exec_rdsbox_invalid hf hv src idx, exec_gentbl_invalid hf hv src m⟩

/-! ## The fault state (O39, O41) -/

theorem presentWord_halted {s : State} (hf : s.fault = true) (cw : CommandWord) :
    presentWord cw s = .next s :=
  whenReady_halted hf _

theorem step_command_halted {cw : CommandWord} {rest : List HostEvent} {s : State}
    (hhost : s.host = .command cw :: rest) (hf : s.fault = true) :
    step s = .next (takeInput rest s) := by
  rw [step_command hhost]
  exact presentWord_halted (s := takeInput rest s) hf cw

/-- Settles O39: the check for FAULT = 0 comes before all else in a command and in a presented word. -/
theorem faultStateIgnoresCommands : Obligations.FaultStateIgnoresCommands :=
  ⟨fun s hf => by rw [cmdReady, hf, Bool.not_true], fun i _ hf => exec_halted hf i,
    fun cw _ hf => presentWord_halted hf cw, fun _ _ _ => step_command_halted⟩

/-- Settles O41: all that is left to the host is to present nothing, or a word that is ignored. -/
theorem firstCauseStaysUntilReset : Obligations.FirstCauseStaysUntilReset := by
  intro s t hf h hreset hduring hpower
  obtain ⟨-, he⟩ | ⟨cw, rest, hhost, -⟩ | ⟨rest, hhost, -⟩ | ⟨cw, n, rest, hhost, -⟩ |
    ⟨rest, hhost, -⟩ := step_cases s
  · cases he.symm.trans h
    exact ⟨hf, rfl⟩
  · cases (step_command_halted hhost hf).symm.trans h
    exact ⟨hf, rfl⟩
  · exact absurd hhost (hreset rest)
  · exact absurd hhost (hduring cw n rest)
  · exact absurd hhost (hpower rest)

/-! ## The order of the checks (O40) -/

theorem needsSbox_eq_true_iff {i : Instr} :
    needsSbox i = true ↔ (∃ src m, i = .gentbl src m) ∨ ∃ src idx, i = .rdsbox src idx := by
  cases i <;> simp [needsSbox]

/-- A command whose check of SBV passes, if it has one, completes without fault (R113, R115). -/
theorem exec_flags_of_checks {i : Instr} {s t : State} (h : exec i s = .next t)
    (hf : s.fault = false) (hv : needsSbox i = true → s.sbv = true) :
    t.fault = false ∧ t.fcause = s.fcause := by
  cases exec_effect h with
  | notReady _ hsbv hi => exact nomatch hsbv.symm.trans (hv hi)
  | ignored | result | emitted | derived => exact ⟨hf, rfl⟩

/-- Settles O40: a word is decoded after the check for FAULT = 0, a command looks at SBV after that, and
no other check raises a fault, as the walk of DERIVE stays consistent. -/
theorem checksAreMadeInOrder : Obligations.ChecksAreMadeInOrder := by
  intro cw s
  refine ⟨fun hf => presentWord_halted hf cw, fun why hf hd => ?_, fun src m hf hd hv => ?_,
    fun src idx hf hd hv => ?_, fun i hf hd hgentbl hrdsbox => ?_⟩
  · rw [presentWord_illegal hd]
    exact whenReady_ready hf _
  · rw [presentWord_legal hd]
    exact exec_gentbl_invalid hf hv src m
  · rw [presentWord_legal hd]
    exact exec_rdsbox_invalid hf hv src idx
  · have hv : needsSbox i = true → s.sbv = true := by
      rw [needsSbox_eq_true_iff]
      rintro (⟨src, m, hi⟩ | ⟨src, idx, hi⟩)
      · exact hgentbl src m hi
      · exact hrdsbox src idx hi
    obtain ⟨t, ht⟩ := exists_next_exec i s
    exact ⟨t, (presentWord_legal hd s).trans ht, exec_flags_of_checks ht hf hv⟩

/-! ## Steps without a command (O46, O48) -/

theorem step_of_host_nil {s : State} (hhost : s.host = []) : step s = .next s := by
  rw [step, takeStep, hhost]

theorem step_powerCycle {rest : List HostEvent} {s : State} (hhost : s.host = .powerCycle :: rest) :
    step s = .next (powerOnReset (takeInput rest s)) := by
  rw [step, takeStep, hhost]
  rfl

/-- Settles O46: of the state before a power cycle only the host's list is read. -/
theorem powerCycleLosesEverything : Obligations.PowerCycleLosesEverything :=
  fun _ _ => step_powerCycle

/-- Settles O48: with an empty list there is no input to serve. -/
theorem idleKeepsState : Obligations.IdleKeepsState := fun _ => step_of_host_nil

end Sys2Proof.Proofs
end

section
/-!
PROOFS. Reset (O43, O45; R129, R130). What an interrupted command would have emitted is what its
complete execution adds at the end of OUT.
-/

namespace Sys2Proof.Proofs

open Sys2Proof.Machine Sys2Proof.Laws

/-! ## The reset event (O43) -/

theorem cmdReady_resetEvent (s : State) : cmdReady (resetEvent s) = true := rfl

theorem step_reset {rest : List HostEvent} {s : State} (hhost : s.host = .reset :: rest) :
    step s = .next (resetEvent (takeInput rest s)) := by
  rw [step, takeStep, hhost]
  rfl

/-- Settles O43: the event writes its six elements, whatever the state was. -/
theorem resetEventClearsState : Obligations.ResetEventClearsState :=
  ⟨fun _ _ => step_reset, fun s => ⟨cmdReady_resetEvent s, status_resetEvent s⟩⟩

/-! ## RST during a command (O45) -/

theorem step_resetDuring {cw : CommandWord} {n : Nat} {rest : List HostEvent} {i : Instr}
    {s u : State} (hhost : s.host = .resetDuring cw n :: rest) (hd : decode cw = .legal i)
    (hu : exec i (takeInput rest s) = .next u) :
    step s = .next (abandonCommand ((wordsOf s u).take n) (takeInput rest s)) := by
  rw [step, takeStep, hhost]
  exact interruptWord_of_presentWord ((presentWord_legal hd _).trans hu) n

theorem wordsOf_eq_of_out_eq_append {s t : State} {ws : List TableWord} (h : s.out ++ ws = t.out) :
    wordsOf s t = ws := by
  rw [wordsOf, ← h, List.drop_left]

/-- Settles O45: a command only adds words at the end of OUT, and the event keeps the first `n` of them. -/
theorem interruptedCommandKeepsEmittedWords : Obligations.InterruptedCommandKeepsEmittedWords := by
  intro cw n rest i s hhost hd
  obtain ⟨u, hu⟩ := exists_next_exec i (takeInput rest s)
  obtain ⟨ws, hws⟩ : s.out <+: u.out := exec_out_prefix (s := takeInput rest s) hu
  have hstep := step_resetDuring hhost hd hu
  rw [wordsOf_eq_of_out_eq_append hws] at hstep
  refine ⟨_, u, hu, hstep, rfl, rfl, rfl, rfl, rfl, rfl, rfl, List.prefix_append s.out _, ?_, ?_⟩
  · rw [← hws]
    exact (List.prefix_append_right_inj s.out).mpr (List.take_prefix n ws)
  · simp [← hws, Nat.add_min_add_left]

end Sys2Proof.Proofs
end
